-- ==== Sys2Proof/Word.lean ====
section
/-! DEFINITION. The widths of CE1: general registers, instruction words, bytes, register numbers. -/

namespace Sys2Proof

/-- A general register value: XLEN = 64 bits (00_scope.md R8, 10_state.md R31). -/
abbrev Word := BitVec 64

/-- An instruction word, the pc and the CRC state (30_encoding.md R90, 10_state.md R33, R34). -/
abbrev Word32 := BitVec 32

/-- One byte of data memory (20_memory.md R61). -/
abbrev Byte := BitVec 8

/-- A 4-bit register field, naming r0 to r15 (30_encoding.md R98). -/
abbrev RegNum := BitVec 4

end Sys2Proof
end

