-- ==== Sys2Proof/Syntax.lean ====
section
/-! DEFINITION. The abstract syntax of CE1: one constructor of `Instr` per row of spec/opcode_table.json. -/

namespace Sys2Proof

/-- The ten assigned control and status registers (10_state.md R39). -/
inductive Csr where
  | crc | cause | epc | einfo0 | einfo1 | poly | polyref | crcinit | crcxorout | padword
  deriving DecidableEq, Repr

/-- The 36 instructions (30_encoding.md R100), operands in the order of 30_encoding.md R111.
CSRW keeps only its source register: the csr it names can only be CRC (30_encoding.md R101, 10_state.md R40). -/
inductive Instr where
  | add (rd rs1 rs2 : RegNum)
  | sub (rd rs1 rs2 : RegNum)
  | and (rd rs1 rs2 : RegNum)
  | or (rd rs1 rs2 : RegNum)
  | xor (rd rs1 rs2 : RegNum)
  | addi (rd rs1 : RegNum) (imm : BitVec 18)
  | slli (rd rs1 : RegNum) (shamt : BitVec 6)
  | srli (rd rs1 : RegNum) (shamt : BitVec 6)
  | movz (rd : RegNum) (imm16 : BitVec 16) (hw : BitVec 2)
  | movk (rd : RegNum) (imm16 : BitVec 16) (hw : BitVec 2)
  | lb (rd rs1 : RegNum) (imm : BitVec 18)
  | lw (rd rs1 : RegNum) (imm : BitVec 18)
  | ld (rd rs1 : RegNum) (imm : BitVec 18)
  | sb (rs2 rs1 : RegNum) (imm : BitVec 18)
  | sw (rs2 rs1 : RegNum) (imm : BitVec 18)
  | sd (rs2 rs1 : RegNum) (imm : BitVec 18)
  | beq (rs1 rs2 : RegNum) (off : BitVec 18)
  | bne (rs1 rs2 : RegNum) (off : BitVec 18)
  | bltu (rs1 rs2 : RegNum) (off : BitVec 18)
  | csrr (rd : RegNum) (csr : Csr)
  | csrw (rs1 : RegNum)
  | halt
  | crci
  | crcb (rs1 : RegNum)
  | crcu (rs1 rs2 : RegNum)
  | crcf (rd : RegNum)
  | brev32 (rd rs1 : RegNum)
  | brev8 (rd rs1 : RegNum)
  | clmul (rd rs1 rs2 : RegNum)
  | clmulh (rd rs1 rs2 : RegNum)
  | gfdiv (rd rs1 rs2 : RegNum)
  | gfmod (rd rs1 rs2 : RegNum) (n : BitVec 10)
  | gfmulmod (rd rs1 rs2 rs3 : RegNum) (n : BitVec 10)
  | gfinv (rd rs1 rs2 : RegNum)
  | gfdivx32 (rd rs1 rs2 : RegNum)
  | forge (rd rs1 : RegNum) (p : Bool)
  deriving DecidableEq, Repr

end Sys2Proof
end

