-- ==== Sys2Proof/WellFormed.lean ====
section
/-! DEFINITION. Which terms of `Instr` are CE1 instructions. Register fields, immediates, shift amounts, lanes and CSRs
admit every value of their types (30_encoding.md R98, R99); the one condition left is the mask width n <= 64. -/

namespace Sys2Proof

/-- The mask width of GFMOD and GFMULMOD: legal values 0 to 64 (30_encoding.md R99, R102 (c)). -/
abbrev maskWidthOk (n : BitVec 10) : Prop := n.toNat ≤ 64

/-- The check of every instruction, as a `Bool`: only GFMOD and GFMULMOD have something to check. -/
def Instr.wf (i : Instr) : Bool :=
  match i with
  | .gfmod _ _ _ n => decide (maskWidthOk n)
  | .gfmulmod _ _ _ _ n => decide (maskWidthOk n)
  | .add _ _ _ | .sub _ _ _ | .and _ _ _ | .or _ _ _ | .xor _ _ _ => true
  | .addi _ _ _ | .slli _ _ _ | .srli _ _ _ | .movz _ _ _ | .movk _ _ _ => true
  | .lb _ _ _ | .lw _ _ _ | .ld _ _ _ | .sb _ _ _ | .sw _ _ _ | .sd _ _ _ => true
  | .beq _ _ _ | .bne _ _ _ | .bltu _ _ _ => true
  | .csrr _ _ | .csrw _ | .halt => true
  | .crci | .crcb _ | .crcu _ _ | .crcf _ => true
  | .brev32 _ _ | .brev8 _ _ => true
  | .clmul _ _ _ | .clmulh _ _ _ | .gfdiv _ _ _ | .gfinv _ _ _ | .gfdivx32 _ _ _ => true
  | .forge _ _ _ => true

/-- The instruction is one of CE1's: it has an encoding (30_encoding.md R98, R99). -/
abbrev Instr.WellFormed (i : Instr) : Prop := i.wf = true

end Sys2Proof
end

