-- ==== Sys2Proof/Decode.lean ====
section
/-! DEFINITION. The decoder of 30_encoding.md R105, total and strict, rejecting every illegal word by the case of R102
it falls under, and after it the encoder written from the same formats (R92 to R97) and opcode map (R100). -/

namespace Sys2Proof

/-- Why a word is illegal: the cases (a) to (e) of 30_encoding.md R102. The engine reports all of them alike
(60_exceptions.md R304); the name is for whoever decodes the word again. -/
inductive Illegal where
  | reservedOpcode   -- (a)
  | reservedField    -- (b)
  | maskTooWide      -- (c)
  | unassignedCsr    -- (d)
  | csrNotWritable   -- (e)
  deriving DecidableEq, Repr

/-! ### Fields (30_encoding.md R91 to R99) -/

/-- Bits 31:26, the opcode (R91). -/
def opcodeOf (w : Word32) : BitVec 6 := w.extractLsb' 26 6

/-- Bits 25:22: rd in formats R, I and M; rs2 in format S; rs1 in format B. -/
def fieldA (w : Word32) : RegNum := w.extractLsb' 22 4

/-- Bits 21:18: rs1 in formats R, I and S; rs2 in format B. -/
def fieldB (w : Word32) : RegNum := w.extractLsb' 18 4

/-- Bits 17:14: rs2 in format R. -/
def fieldC (w : Word32) : RegNum := w.extractLsb' 14 4

/-- Bits 13:10: rs3 in format R. -/
def fieldD (w : Word32) : RegNum := w.extractLsb' 10 4

/-- Bits 9:0: imm10 of format R, the mask width n (R92, R99). -/
def imm10Of (w : Word32) : BitVec 10 := w.extractLsb' 0 10

/-- Bits 17:0: imm18 of formats I, S and B. -/
def imm18Of (w : Word32) : BitVec 18 := w.extractLsb' 0 18

/-- Bits 5:0: the shift amount (R99). -/
def shamtOf (w : Word32) : BitVec 6 := w.extractLsb' 0 6

/-- Bits 15:0: imm16 of format M. -/
def imm16Of (w : Word32) : BitVec 16 := w.extractLsb' 0 16

/-- Bits 21:20: the lane number hw of format M. -/
def hwOf (w : Word32) : BitVec 2 := w.extractLsb' 20 2

/-- Bits 11:0: the CSR number (R99). -/
def csrFieldOf (w : Word32) : BitVec 12 := w.extractLsb' 0 12

/-- Bit 0: the padding flag of FORGE (R99). -/
def padFlagOf (w : Word32) : Bool := w.getLsbD 0

/-! ### CSR numbers (10_state.md R39) -/

/-- The number of an assigned CSR. -/
def Csr.number : Csr → BitVec 12
  | .crc => 0x001
  | .cause => 0x002
  | .epc => 0x003
  | .einfo0 => 0x004
  | .einfo1 => 0x005
  | .poly => 0x010
  | .polyref => 0x011
  | .crcinit => 0x012
  | .crcxorout => 0x013
  | .padword => 0x014

/-- The CSR a number is assigned to, if any; 0x000 and every other number are unassigned. -/
def csrOfNumber (n : BitVec 12) : Option Csr :=
  match n.toNat with
  | 0x001 => some .crc
  | 0x002 => some .cause
  | 0x003 => some .epc
  | 0x004 => some .einfo0
  | 0x005 => some .einfo1
  | 0x010 => some .poly
  | 0x011 => some .polyref
  | 0x012 => some .crcinit
  | 0x013 => some .crcxorout
  | 0x014 => some .padword
  | _ => none

/-! ### The decoder -/

/-- One row of 30_encoding.md R101: its mask, its match, and its extra condition with the instruction it yields. -/
structure Row where
  mask : Word32
  mtch : Word32
  build : Word32 → Except Illegal Instr

/-- A row without an extra condition. -/
def plainRow (mask mtch : Word32) (instr : Word32 → Instr) : Row := ⟨mask, mtch, fun w => .ok (instr w)⟩

/-- A row with the extra condition n <= 64 (R101, GFMOD and GFMULMOD). -/
def maskWidthRow (mask mtch : Word32) (instr : Word32 → Instr) : Row :=
  ⟨mask, mtch, fun w => if maskWidthOk (imm10Of w) then .ok (instr w) else .error .maskTooWide⟩

/-- CSRR's extra condition: the csr is assigned (R101, 10_state.md R39). -/
def buildCsrr (w : Word32) : Except Illegal Instr :=
  match csrOfNumber (csrFieldOf w) with
  | some c => .ok (.csrr (fieldA w) c)
  | none => .error .unassignedCsr

/-- The three-register instruction of a format R word. -/
def regs3 (instr : RegNum → RegNum → RegNum → Instr) (w : Word32) : Instr := instr (fieldA w) (fieldB w) (fieldC w)

/-- The two-register and imm18 instruction of a format I, S or B word. -/
def regs2Imm18 (instr : RegNum → RegNum → BitVec 18 → Instr) (w : Word32) : Instr :=
  instr (fieldA w) (fieldB w) (imm18Of w)

/-- The opcode map with the masks and matches of 30_encoding.md R100 and R101; `none` for a reserved opcode. -/
def rowOf (op : BitVec 6) : Option Row :=
  match op.toNat with
  | 0x01 => some (plainRow 0xFC003FFF 0x04000000 (regs3 .add))
  | 0x02 => some (plainRow 0xFC003FFF 0x08000000 (regs3 .sub))
  | 0x03 => some (plainRow 0xFC003FFF 0x0C000000 (regs3 .and))
  | 0x04 => some (plainRow 0xFC003FFF 0x10000000 (regs3 .or))
  | 0x05 => some (plainRow 0xFC003FFF 0x14000000 (regs3 .xor))
  | 0x06 => some (plainRow 0xFC000000 0x18000000 (regs2Imm18 .addi))
  | 0x07 => some (plainRow 0xFC03FFC0 0x1C000000 fun w => .slli (fieldA w) (fieldB w) (shamtOf w))
  | 0x08 => some (plainRow 0xFC03FFC0 0x20000000 fun w => .srli (fieldA w) (fieldB w) (shamtOf w))
  | 0x09 => some (plainRow 0xFC0F0000 0x24000000 fun w => .movz (fieldA w) (imm16Of w) (hwOf w))
  | 0x0A => some (plainRow 0xFC0F0000 0x28000000 fun w => .movk (fieldA w) (imm16Of w) (hwOf w))
  | 0x10 => some (plainRow 0xFC000000 0x40000000 (regs2Imm18 .lb))
  | 0x11 => some (plainRow 0xFC000000 0x44000000 (regs2Imm18 .lw))
  | 0x12 => some (plainRow 0xFC000000 0x48000000 (regs2Imm18 .ld))
  | 0x13 => some (plainRow 0xFC000000 0x4C000000 (regs2Imm18 .sb))
  | 0x14 => some (plainRow 0xFC000000 0x50000000 (regs2Imm18 .sw))
  | 0x15 => some (plainRow 0xFC000000 0x54000000 (regs2Imm18 .sd))
  | 0x18 => some (plainRow 0xFC000000 0x60000000 (regs2Imm18 .beq))
  | 0x19 => some (plainRow 0xFC000000 0x64000000 (regs2Imm18 .bne))
  | 0x1A => some (plainRow 0xFC000000 0x68000000 (regs2Imm18 .bltu))
  | 0x1C => some ⟨0xFC3FF000, 0x70000000, buildCsrr⟩
  | 0x1D => some (plainRow 0xFFC3FFFF 0x74000001 fun w => .csrw (fieldB w))
  | 0x1F => some (plainRow 0xFFFFFFFF 0x7C000000 fun _ => .halt)
  | 0x20 => some (plainRow 0xFFFFFFFF 0x80000000 fun _ => .crci)
  | 0x21 => some (plainRow 0xFFC3FFFF 0x84000000 fun w => .crcb (fieldB w))
  | 0x22 => some (plainRow 0xFFC03FFF 0x88000000 fun w => .crcu (fieldB w) (fieldC w))
  | 0x23 => some (plainRow 0xFC3FFFFF 0x8C000000 fun w => .crcf (fieldA w))
  | 0x28 => some (plainRow 0xFC03FFFF 0xA0000000 fun w => .brev32 (fieldA w) (fieldB w))
  | 0x29 => some (plainRow 0xFC03FFFF 0xA4000000 fun w => .brev8 (fieldA w) (fieldB w))
  | 0x30 => some (plainRow 0xFC003FFF 0xC0000000 (regs3 .clmul))
  | 0x31 => some (plainRow 0xFC003FFF 0xC4000000 (regs3 .clmulh))
  | 0x32 => some (plainRow 0xFC003FFF 0xC8000000 (regs3 .gfdiv))
  | 0x33 => some (maskWidthRow 0xFC003F80 0xCC000000 fun w => .gfmod (fieldA w) (fieldB w) (fieldC w) (imm10Of w))
  | 0x34 => some (maskWidthRow 0xFC000380 0xD0000000 fun w =>
      .gfmulmod (fieldA w) (fieldB w) (fieldC w) (fieldD w) (imm10Of w))
  | 0x35 => some (plainRow 0xFC003FFF 0xD4000000 (regs3 .gfinv))
  | 0x36 => some (plainRow 0xFC003FFF 0xD8000000 (regs3 .gfdivx32))
  | 0x38 => some (plainRow 0xFC03FFFE 0xE0000000 fun w => .forge (fieldA w) (fieldB w) (padFlagOf w))
  | _ => none

/-- The case of R102 for a word whose opcode is assigned but which misses its row's match. A word that falls under
(b) and also under (c) or (e) is named by the latter; R308 makes the order unobservable. -/
def mismatch (w : Word32) : Illegal :=
  match (opcodeOf w).toNat with
  | 0x1D => if csrFieldOf w = 0x001 then .reservedField else .csrNotWritable
  | 0x33 => if maskWidthOk (imm10Of w) then .reservedField else .maskTooWide
  | 0x34 => if maskWidthOk (imm10Of w) then .reservedField else .maskTooWide
  | _ => .reservedField

/-- The decoder (30_encoding.md R105): total on words, every word an instruction or illegal by name (R102, R104). -/
def decode (w : Word32) : Except Illegal Instr :=
  match rowOf (opcodeOf w) with
  | none => .error .reservedOpcode
  | some r => if w &&& r.mask = r.mtch then r.build w else .error (mismatch w)

/-! ### The encoder -/

/-- Format R (R92). -/
def formatR (op : BitVec 6) (rd rs1 rs2 rs3 : RegNum) (imm10 : BitVec 10) : Word32 :=
  op ++ rd ++ rs1 ++ rs2 ++ rs3 ++ imm10

/-- Formats I, S and B, which share one layout (R93 to R95): two register fields and 18 bits. -/
def formatI (op : BitVec 6) (a b : RegNum) (imm18 : BitVec 18) : Word32 := op ++ a ++ b ++ imm18

/-- Format M (R96). -/
def formatM (op : BitVec 6) (rd : RegNum) (hw : BitVec 2) (imm16 : BitVec 16) : Word32 :=
  op ++ rd ++ hw ++ 0#4 ++ imm16

/-- Format N (R97). -/
def formatN (op : BitVec 6) : Word32 := op ++ 0#26

/-- A format R word that uses rd, rs1 and rs2 only. -/
def formatR3 (op : BitVec 6) (rd rs1 rs2 : RegNum) : Word32 := formatR op rd rs1 rs2 0 0

/-- The word of an instruction (30_encoding.md R92 to R101). -/
def encode : Instr → Word32
  | .add rd rs1 rs2 => formatR3 0x01 rd rs1 rs2
  | .sub rd rs1 rs2 => formatR3 0x02 rd rs1 rs2
  | .and rd rs1 rs2 => formatR3 0x03 rd rs1 rs2
  | .or rd rs1 rs2 => formatR3 0x04 rd rs1 rs2
  | .xor rd rs1 rs2 => formatR3 0x05 rd rs1 rs2
  | .addi rd rs1 imm => formatI 0x06 rd rs1 imm
  | .slli rd rs1 shamt => formatI 0x07 rd rs1 (0#12 ++ shamt)
  | .srli rd rs1 shamt => formatI 0x08 rd rs1 (0#12 ++ shamt)
  | .movz rd imm16 hw => formatM 0x09 rd hw imm16
  | .movk rd imm16 hw => formatM 0x0A rd hw imm16
  | .lb rd rs1 imm => formatI 0x10 rd rs1 imm
  | .lw rd rs1 imm => formatI 0x11 rd rs1 imm
  | .ld rd rs1 imm => formatI 0x12 rd rs1 imm
  | .sb rs2 rs1 imm => formatI 0x13 rs2 rs1 imm
  | .sw rs2 rs1 imm => formatI 0x14 rs2 rs1 imm
  | .sd rs2 rs1 imm => formatI 0x15 rs2 rs1 imm
  | .beq rs1 rs2 off => formatI 0x18 rs1 rs2 off
  | .bne rs1 rs2 off => formatI 0x19 rs1 rs2 off
  | .bltu rs1 rs2 off => formatI 0x1A rs1 rs2 off
  | .csrr rd csr => formatI 0x1C rd 0 (0#6 ++ csr.number)
  | .csrw rs1 => formatI 0x1D 0 rs1 (0#6 ++ Csr.crc.number)
  | .halt => formatN 0x1F
  | .crci => formatN 0x20
  | .crcb rs1 => formatR3 0x21 0 rs1 0
  | .crcu rs1 rs2 => formatR3 0x22 0 rs1 rs2
  | .crcf rd => formatR3 0x23 rd 0 0
  | .brev32 rd rs1 => formatR3 0x28 rd rs1 0
  | .brev8 rd rs1 => formatR3 0x29 rd rs1 0
  | .clmul rd rs1 rs2 => formatR3 0x30 rd rs1 rs2
  | .clmulh rd rs1 rs2 => formatR3 0x31 rd rs1 rs2
  | .gfdiv rd rs1 rs2 => formatR3 0x32 rd rs1 rs2
  | .gfmod rd rs1 rs2 n => formatR 0x33 rd rs1 rs2 0 n
  | .gfmulmod rd rs1 rs2 rs3 n => formatR 0x34 rd rs1 rs2 rs3 n
  | .gfinv rd rs1 rs2 => formatR3 0x35 rd rs1 rs2
  | .gfdivx32 rd rs1 rs2 => formatR3 0x36 rd rs1 rs2
  | .forge rd rs1 p => formatR 0x38 rd rs1 0 0 (0#9 ++ BitVec.ofBool p)

/-- The instruction the decoder reads from an opcode-table word: CE1 instructions are one 32-bit word (R90), which the
hardware stores whole in IMEM (20_memory.md R60, R65), so the word is `w` cut to its `nbits` bits. -/
def decodeTableWord (nbits w : Nat) : Option Instr := (decode (BitVec.ofNat 32 (w % 2 ^ nbits))).toOption

end Sys2Proof
end

