-- ==== Sys2Proof/Machine/Constants.lean ====
section
/-! DEFINITION. The five constants the source fixes (10_state.md R38): wired into the CRC unit and the forge engine, and
readable as CSRs. No instruction, reset or host access changes them (00_scope.md R3). -/

namespace Sys2Proof.Machine

/-- POLY: the 33-bit generator G = x^32 + ... + 1 (R38). -/
def polyConst : Word := 0x104C11DB7

/-- POLYREF: the generator without x^32, reflected (R38). -/
def polyRefConst : Word := 0xEDB88320

/-- CRCINIT: the initial CRC register (R38). -/
def crcInitConst : Word := 0xFFFFFFFF

/-- CRCXOROUT: the final XOR (R38). -/
def crcXorOutConst : Word := 0xFFFFFFFF

/-- PADWORD: the padding marker 08 08 08 08 (R38). -/
def padWordConst : Word := 0x08080808

/-- The generator G as a polynomial (00_scope.md R13). -/
def generator : Nat := polyConst.toNat

/-- The reflected generator as the CRC unit's 32-bit feedback word (42_crc32.md R160). -/
def feedback : Word32 := polyRefConst.setWidth 32

/-- The CRC initial value as a CRC state. -/
def crcInit : Word32 := crcInitConst.setWidth 32

/-- The final XOR as a CRC state. -/
def crcXorOut : Word32 := crcXorOutConst.setWidth 32

end Sys2Proof.Machine
end

