-- ==== Sys2Proof/Config.lean ====
section
/-! DEFINITION. What an implementation fixes and the spec leaves open: the legal parameter ranges and their defaults
(00_scope.md R9), the open parameter HOST_BASE, and the free draws of memory at power-on (70_reset_and_hazards.md R341). -/

namespace Sys2Proof

/-- The default of IMEM_WORDS (00_scope.md R9). -/
def Config.defaultImemWords : Nat := 4096

/-- The default of DMEM_BYTES (00_scope.md R9). -/
def Config.defaultDmemBytes : Nat := 65536

/-- The largest legal IMEM_WORDS, the size of the host's IMEM window (00_scope.md R9, 60_exceptions.md R321). -/
def Config.maxImemWords : Nat := 0x3C000

/-- The largest legal DMEM_BYTES (00_scope.md R9). -/
def Config.maxDmemBytes : Nat := 2 ^ 64 - 1

/-- HOST_BASE, where the register map sits in the host's address space: "any, platform choice", left open
(00_scope.md R9, 93_implementation_defined.md I12). No proof can know it. Log 2. -/
opaque Config.hostBase : Nat

/-- The free draw of DMEM: `dmemDraw k a` is what byte `a` holds after the power-on numbered `k` until somebody
writes it (70_reset_and_hazards.md R341, 93_implementation_defined.md I1). Nothing may be proved from it. Log 3. -/
opaque Config.dmemDraw : Nat → Nat → Byte

/-- The free draw of IMEM: `imemDraw k i` is what word `i` holds after the power-on numbered `k` until the host
writes it (70_reset_and_hazards.md R341, 93_implementation_defined.md I1, I2). Nothing may be proved from it. Log 3. -/
opaque Config.imemDraw : Nat → Nat → Word32

end Sys2Proof
end

