-- ==== Sys2Proof/Machine/State.lean ====
section
/-! DEFINITION. The state of the machine (10_state.md R45), the reasons a step can stop, and the state after power-on
reset (70_reset_and_hazards.md R340). -/

namespace Sys2Proof.Machine

/-- The run state (10_state.md R35): the four legal values of STATUS. Log 13. -/
inductive RunStatus where
  | idle | running | halted | faulted
  deriving DecidableEq, Repr

/-- The cause codes 0 to 5 of 60_exceptions.md R302; "No other code is ever written". Log 13. -/
inductive Cause where
  | none | fetchFault | illegalInstruction | addrFault | domainError | verifyFailed
  deriving DecidableEq, Repr

/-- The parameters IMEM_WORDS and DMEM_BYTES of 00_scope.md R9, which "a model takes as an argument". Log 1. -/
structure Params where
  imemWords : Nat
  dmemBytes : Nat
  deriving DecidableEq, Repr

/-- A memory as the cells written since power-on, by address: strictly rising addresses (`Memory.wf`). An address that is
not listed has not been written, and reads as its power-on draw. Logs 3 and 5. -/
abbrev Memory (α : Type) := List (Nat × α)

/-- The canonical form of a memory: addresses strictly rising. Log 5. -/
abbrev Memory.wf {α : Type} (m : Memory α) : Prop := m.Pairwise fun p q => p.1 < q.1

/-- What may happen to the engine next from outside it, in the order it happens (60_exceptions.md R320 to R327). Log 6.
`read` and `write` are host accesses: their width in bits, their offset from HOST_BASE, and the value written. -/
inductive Input where
  /-- The engine takes one step before the next input lands (R324: host accesses take effect between engine steps). -/
  | engineTurn
  | read (bits offset : Nat)
  | write (bits offset : Nat) (value : Word)
  /-- Power-on reset by the platform's reset input (70_reset_and_hazards.md R343). -/
  | powerOn
  deriving DecidableEq, Repr

/-- The whole state. `regs` to `dmem` are the record of 10_state.md R45; `params` holds the parameters of 00_scope.md R9;
`powerOns`, `inputs` and `replies` are the model's own (logs 4, 6, 7). -/
structure State where
  /-- IMEM_WORDS and DMEM_BYTES; no step changes them. -/
  params : Params
  /-- r1 to r15, in this order; r0 is hardwired to zero and not stored (R31). -/
  regs : Vector Word 15
  /-- The word index of the next instruction (R33). -/
  pc : Word32
  /-- The CRC state before the final XOR (R34). -/
  crc : Word32
  /-- STATUS (R35). -/
  status : RunStatus
  /-- CAUSE bits 7:0 (R36). -/
  cause : Cause
  /-- EPC bits 31:0 (R37). -/
  epc : Word32
  /-- EINFO0 (R37). -/
  einfo0 : Word
  /-- EINFO1 (R37). -/
  einfo1 : Word
  /-- The IMEM words written since power-on (R43, 20_memory.md R60). -/
  imem : Memory Word32
  /-- The DMEM bytes written since power-on (R43, 20_memory.md R61). -/
  dmem : Memory Byte
  /-- How many power-on resets the platform has made since the start: it selects the draw of the unwritten cells. -/
  powerOns : Nat
  /-- The inputs still to come, the next one first. -/
  inputs : List Input
  /-- What the host's reads returned, oldest first. -/
  replies : List Word
  deriving DecidableEq, Repr

/-- Why a step stops with a fault of the MODEL. The five architectural faults of 60_exceptions.md R302 are not here:
taking one is a next state (R301). -/
inductive Fault where
  /-- Raised by `step` alone, when the parameters lie outside the legal values of 00_scope.md R9: the spec describes no
  such machine. Safe: the model stops where there is no hardware to speak of. Log 8. -/
  | illegalParameters
  deriving DecidableEq, Repr

/-- Why a step is refused. -/
inductive Refusal where
  /-- Raised by no one: every instruction has its meaning. Safe. -/
  | notModelled (mnemonic : String)
  /-- Raised by `step` for a host access whose width is not the one 60_exceptions.md R321 gives the register:
  "outside this spec", no transition (93_implementation_defined.md I7). Safe. Log 10. -/
  | hostAccessWidth
  deriving DecidableEq, Repr

/-- The machine after power-on reset (70_reset_and_hazards.md R340, R343): registers at their reset values, nothing
written to the memories, the default sizes of 00_scope.md R9, nothing pending. -/
def State.reset : State where
  params := ⟨Config.defaultImemWords, Config.defaultDmemBytes⟩
  regs := Vector.replicate 15 0
  pc := 0
  crc := 0xFFFFFFFF
  status := .idle
  cause := .none
  epc := 0
  einfo0 := 0
  einfo1 := 0
  imem := []
  dmem := []
  powerOns := 0
  inputs := []
  replies := []

end Sys2Proof.Machine
end

