-- ==== Sys2Proof/Machine/Ops.lean ====
section
/-! DEFINITION. The named operations over registers, memories and the run state that the meanings share, and taking a
fault (60_exceptions.md R301). The spec gives no return from a fault (R310): the way out is the host's START or RESET. -/

namespace Sys2Proof.Machine

/-- What a step, or an instruction's meaning, answers. -/
abbrev Result := Host.Outcome State Fault Refusal

/-! ### General registers (10_state.md R31, R32) -/

/-- The place of r1 to r15 in the register vector. -/
def regIndex (r : RegNum) : Fin 15 := ⟨r.toNat - 1, by have := r.isLt; omega⟩

/-- `x[r]`: r0 reads 0 (R31). -/
def State.x (s : State) (r : RegNum) : Word := if r = 0 then 0 else s.regs[regIndex r]

/-- `x[r] <- v`: a write to r0 is discarded (R32). -/
def State.setX (s : State) (r : RegNum) (v : Word) : State :=
  { s with regs := if r = 0 then s.regs else s.regs.set (regIndex r) v }

/-! ### The program counter, CRC and STATUS as written by instructions -/

/-- `pc <- v` (10_state.md R33). -/
def State.setPc (s : State) (v : Word32) : State := { s with pc := v }

/-- `CRC <- c` (10_state.md R34). -/
def State.setCrc (s : State) (c : Word32) : State := { s with crc := c }

/-- `STATUS <- v` (10_state.md R35). -/
def State.setStatus (s : State) (v : RunStatus) : State := { s with status := v }

/-- The default next pc, `trunc_32(pc + 1)` (10_state.md R33). -/
def State.advance (s : State) : State := s.setPc (s.pc + 1)

/-! ### Memory cells -/

/-- The value written at an address, if any was. -/
def readCell {α : Type} : Memory α → Nat → Option α
  | [], _ => none
  | (k, v) :: rest, a => if k = a then some v else readCell rest a

/-- The memory with one cell written, in the canonical form again. -/
def writeCell {α : Type} : Memory α → Nat → α → Memory α
  | [], a, v => [(a, v)]
  | (k, u) :: rest, a, v =>
    if a < k then (a, v) :: (k, u) :: rest
    else if a = k then (a, v) :: rest
    else (k, u) :: writeCell rest a v

/-! ### Data memory (20_memory.md R61 to R66) -/

/-- `DMEM[a]`: the byte last written, or the power-on draw of a byte nobody wrote (70_reset_and_hazards.md R341). -/
def State.byte (s : State) (a : Nat) : Byte := (readCell s.dmem a).getD (Config.dmemDraw s.powerOns a)

/-- `MemCheck(a, n)` passes (R62): on unbounded integers, and always for n = 0. -/
abbrev State.memCheck (s : State) (a n : Nat) : Prop := n = 0 ∨ a + n ≤ s.params.dmemBytes

/-- `MemRead(a, n)` (R63): ascending addresses. -/
def State.memRead (s : State) (a : Nat) : Nat → List Byte
  | 0 => []
  | n + 1 => s.byte a :: s.memRead (a + 1) n

/-- The bytes of a sequence stored from an address upwards. -/
def writeBytes (m : Memory Byte) (a : Nat) : List Byte → Memory Byte
  | [] => m
  | b :: rest => writeBytes (writeCell m a b) (a + 1) rest

/-- `MemWrite(a, n, s)` with n = len(s) (R64). -/
def State.memWrite (s : State) (a : Nat) (bytes : List Byte) : State := { s with dmem := writeBytes s.dmem a bytes }

/-! ### Instruction memory (20_memory.md R60) -/

/-- `IMEM[i]`: the word last written, or the power-on draw (70_reset_and_hazards.md R341). -/
def State.word (s : State) (i : Nat) : Word32 := (readCell s.imem i).getD (Config.imemDraw s.powerOns i)

/-- IMEM word `i` written. Only the host does this (R60). -/
def State.setWord (s : State) (i : Nat) (w : Word32) : State := { s with imem := writeCell s.imem i w }

/-! ### Byte sequences (00_scope.md R12) -/

/-- `be_u(s)`: the unsigned big-endian value. -/
def beU (bytes : List Byte) : Nat := bytes.foldl (fun acc b => acc * 256 + b.toNat) 0

/-- `be_bytes_n(v)`: the n-byte big-endian encoding of `trunc_{8n}(v)`, most significant byte first. -/
def beBytes : Nat → Nat → List Byte
  | 0, _ => []
  | n + 1, v => BitVec.ofNat 8 (v >>> (8 * n)) :: beBytes n v

/-! ### STATUS, CAUSE and the fault record (10_state.md R35 to R37) -/

/-- The value of STATUS. -/
def RunStatus.value : RunStatus → Word
  | .idle => 0x0
  | .running => 0x1
  | .halted => 0x2
  | .faulted => 0x4

/-- The cause code (60_exceptions.md R302). -/
def Cause.code : Cause → Byte
  | .none => 0
  | .fetchFault => 1
  | .illegalInstruction => 2
  | .addrFault => 3
  | .domainError => 4
  | .verifyFailed => 5

/-- Fault entry (60_exceptions.md R301): the one operation that takes any fault. pc and everything else stay. -/
def State.takeFault (s : State) (c : Cause) (e0 e1 : Word) : State :=
  { s with cause := c, epc := s.pc, einfo0 := e0, einfo1 := e1, status := .faulted }

/-- `raise C(e0, e1)` as the outcome of an instruction: the next state is the fault's entry. -/
def State.raise (s : State) (c : Cause) (e0 e1 : Word) : Result := .next (s.takeFault c e0 e1)

/-- The outcome of an instruction whose only result is `x[rd] <- v`. -/
def State.finish (s : State) (rd : RegNum) (v : Word) : Result := .next (s.setX rd v).advance

/-- The outcome of an instruction whose only result is `CRC <- c`. -/
def State.finishCrc (s : State) (c : Word32) : Result := .next (s.setCrc c).advance

/-! ### Parameters (00_scope.md R9) -/

/-- The parameters have legal values. -/
abbrev Params.legal (p : Params) : Prop :=
  1 ≤ p.imemWords ∧ p.imemWords ≤ Config.maxImemWords ∧ 1 ≤ p.dmemBytes ∧ p.dmemBytes ≤ Config.maxDmemBytes

end Sys2Proof.Machine
end

