-- ==== Sys2Proof/Machine/Operands.lean ====
section
/-! DEFINITION. The operand forms: immediates (30_encoding.md R99), the effective address of loads and stores
(45_sequencer.md R256), branch targets (R260) and the 16-bit lanes of MOVZ and MOVK (R248, R249). -/

namespace Sys2Proof.Machine

/-- `sext_18` of an imm18 field as a 64-bit addend (R99). -/
def immWord (imm : BitVec 18) : Word := imm.signExtend 64

/-- The effective address `trunc_64(x[rs1] + sext_18(imm))` (R256). -/
def State.ea (s : State) (rs1 : RegNum) (imm : BitVec 18) : Word := s.x rs1 + immWord imm

/-- The branch target `trunc_32(pc + sext_18(off))` (R260). -/
def State.target (s : State) (off : BitVec 18) : Word32 := s.pc + off.signExtend 32

/-- The bit position 16·hw of a lane (R99). -/
def laneShift (hw : BitVec 2) : Nat := 16 * hw.toNat

/-- `zext_64(imm16) << (16 * hw)` (R248). -/
def laneWord (imm16 : BitVec 16) (hw : BitVec 2) : Word := imm16.setWidth 64 <<< laneShift hw

/-- `0xFFFF << (16 * hw)`: the lane MOVK replaces (R249). -/
def laneMask (hw : BitVec 2) : Word := (0xFFFF : Word) <<< laneShift hw

end Sys2Proof.Machine
end

