-- ==== Sys2Proof/Machine/Flags.lean ====
section
/-! DEFINITION. The engine has no status flags, condition codes or predicates, and no instruction writes one
(10_state.md R41): there is no flag to compute. What stands in their place are the three comparisons of two registers
that the branches make (45_sequencer.md R261 to R263), over the whole 64 bits. -/

namespace Sys2Proof.Machine

/-- BEQ's condition (R261). -/
def condEq (a b : Word) : Bool := a == b

/-- BNE's condition (R262). -/
def condNe (a b : Word) : Bool := a != b

/-- BLTU's condition, unsigned (R263). -/
def condLtu (a b : Word) : Bool := a.ult b

end Sys2Proof.Machine
end

