-- ==== Sys2Proof/Machine/Branch.lean ====
section
/-! DEFINITION. The branches (45_sequencer.md R260 to R263), the only transfers of control beside HALT and a fault
(R264). A target is not checked when the branch executes (R260). -/

namespace Sys2Proof.Machine

/-- `pc <- target` when the condition holds, else the default next pc (R260). -/
def State.branch (s : State) (taken : Bool) (off : BitVec 18) : Result :=
  .next (if taken then s.setPc (s.target off) else s.advance)

/-- BEQ (R261). -/
def execBeq (rs1 rs2 : RegNum) (off : BitVec 18) (s : State) : Result := s.branch (condEq (s.x rs1) (s.x rs2)) off

/-- BNE (R262). -/
def execBne (rs1 rs2 : RegNum) (off : BitVec 18) (s : State) : Result := s.branch (condNe (s.x rs1) (s.x rs2)) off

/-- BLTU (R263). -/
def execBltu (rs1 rs2 : RegNum) (off : BitVec 18) (s : State) : Result := s.branch (condLtu (s.x rs1) (s.x rs2)) off

end Sys2Proof.Machine
end

