-- ==== Sys2Proof/Machine/Crc.lean ====
section
/-! DEFINITION. The CRC-32 engine (42_crc32.md): the reflected shift register, and CRCI, CRCB, CRCU and CRCF. -/

namespace Sys2Proof.Machine

/-- One shift of the reflected register (R160): right by one, with the feedback when a 1 leaves at bit 0. -/
def crcShift (c : Word32) : Word32 := if c.getLsbD 0 then (c >>> 1) ^^^ feedback else c >>> 1

/-- `crcShift` repeated. -/
def crcShifts : Nat → Word32 → Word32
  | 0, c => c
  | n + 1, c => crcShifts n (crcShift c)

/-- `CrcByte(c, b)` (R160): the byte enters bits 7:0, then eight shifts. -/
def crcByte (c : Word32) (b : Byte) : Word32 := crcShifts 8 (c ^^^ b.setWidth 32)

/-- `CrcBytes(c, s)`, first byte first (R161). -/
def crcBytes : Word32 → List Byte → Word32
  | c, [] => c
  | c, b :: rest => crcBytes (crcByte c b) rest

/-- The finished checksum of a CRC state (R162, R168). -/
def crcFinal (c : Word32) : Word32 := c ^^^ crcXorOut

/-- `crc32(s)` (R162). -/
def crc32 (bytes : List Byte) : Word32 := crcFinal (crcBytes crcInit bytes)

/-- CRCI (R165). -/
def execCrci (s : State) : Result := s.finishCrc crcInit

/-- CRCB: bits 7:0 of the register (R166). -/
def execCrcb (rs1 : RegNum) (s : State) : Result := s.finishCrc (crcByte s.crc ((s.x rs1).setWidth 8))

/-- CRCU: the range is checked before any byte is consumed (R167). -/
def execCrcu (rs1 rs2 : RegNum) (s : State) : Result :=
  if s.memCheck (s.x rs1).toNat (s.x rs2).toNat then
    s.finishCrc (crcBytes s.crc (s.memRead (s.x rs1).toNat (s.x rs2).toNat))
  else s.raise .addrFault (s.x rs1) (s.x rs2)

/-- CRCF: the checksum, CRC itself unchanged (R168). -/
def execCrcf (rd : RegNum) (s : State) : Result := s.finish rd ((crcFinal s.crc).setWidth 64)

end Sys2Proof.Machine
end

