-- ==== Sys2Proof/Machine/Gf2.lean ====
section
/-! DEFINITION. GF(2) polynomial arithmetic (41_gf2_arith.md): the pure functions on unbounded naturals, bit i the
coefficient of x^i (00_scope.md R13), and the seven instructions, which narrow to 64 bits only where they write. -/

namespace Sys2Proof.Machine

/-- `mask_n(v) = v & (2^n - 1)` (00_scope.md R11). -/
def maskBits (n v : Nat) : Nat := v &&& (2 ^ n - 1)

/-- `deg(p)`, with `deg(0) = -1` (00_scope.md R13). -/
def deg (p : Nat) : Int := if p = 0 then -1 else (p.log2 : Int)

/-- The number of bits of p, `deg(p) + 1`. -/
def bitLength (p : Nat) : Nat := if p = 0 then 0 else p.log2 + 1

/-- The part of the carry-less product due to the low n bits of b. -/
def clmulLow (a b : Nat) : Nat → Nat
  | 0 => 0
  | n + 1 => clmulLow a b n ^^^ (if b.testBit n then a <<< n else 0)

/-- `clmul(a, b)`: shift-and-XOR over the bits of b (R120). -/
def clmul (a b : Nat) : Nat := clmulLow a b (bitLength b)

/-- The reduction loop of R121: from (a, q), at most `fuel` passes; answers (quotient, remainder). -/
def reduceLoop (b : Nat) : Nat → Nat → Nat → Nat × Nat
  | 0, a, q => (q, a)
  | fuel + 1, a, q =>
    if deg b ≤ deg a then
      let sh := (deg a - deg b).toNat
      reduceLoop b fuel (a ^^^ (b <<< sh)) (q ||| (1 <<< sh))
    else (q, a)

/-- Quotient and remainder together. Every pass clears the top bit of a (R121), so `bitLength a` passes are enough. -/
def pdivrem (a b : Nat) : Nat × Nat := if b = 0 then (0, a) else reduceLoop b (bitLength a) a 0

/-- `pdiv(a, b)`, the quotient; 0 for b = 0 (R121). -/
def pdiv (a b : Nat) : Nat := (pdivrem a b).1

/-- `prem(a, b)`, the remainder; a for b = 0 (R122). -/
def prem (a b : Nat) : Nat := (pdivrem a b).2

/-- `pmod(a, b, n)`, the remainder masked to n bits (R122). -/
def pmod (a b n : Nat) : Nat := maskBits n (prem a b)

/-- The Euclidean loop of R123: from (r0, r1) and (s0, s1), at most `fuel` passes; answers (r0, s0) at r1 = 0. -/
def euclidLoop : Nat → Nat → Nat → Nat → Nat → Nat × Nat
  | 0, r0, _, s0, _ => (r0, s0)
  | fuel + 1, r0, r1, s0, s1 =>
    if r1 = 0 then (r0, s0)
    else
      let q := pdiv r0 r1
      euclidLoop fuel r1 (r0 ^^^ clmul q r1) s1 (s0 ^^^ clmul q s1)

/-- `pinv(a, m)`, the inverse of a modulo m, or `none` for the source's DomainError (R123). The loop ends within
`deg(a) + 1` passes (R123, 90_conflicts.md C7). -/
def pinv (a m : Nat) : Option Nat :=
  if a = 0 then none
  else
    let (r, t) := euclidLoop (bitLength a) m a 0 1
    if r = 1 then some t else none

/-- x^32. -/
def x32 : Nat := 2 ^ 32

/-- `pdivx32(k, poly)`: k times the inverse of x^32, fully reduced and not masked (R124). -/
def pdivx32 (k poly : Nat) : Option Nat := (pinv x32 poly).map fun inv => prem (clmul k inv) poly

/-- `trunc_64`, at the write of a general register (10_state.md R32). -/
def toWord (v : Nat) : Word := BitVec.ofNat 64 v

/-- CLMUL, bits 63:0 of the product (R130). -/
def execClmul (rd rs1 rs2 : RegNum) (s : State) : Result := s.finish rd (toWord (clmul (s.x rs1).toNat (s.x rs2).toNat))

/-- CLMULH, bits 127:64 of the product (R131). -/
def execClmulh (rd rs1 rs2 : RegNum) (s : State) : Result :=
  s.finish rd (toWord (clmul (s.x rs1).toNat (s.x rs2).toNat >>> 64))

/-- GFDIV; divisor 0 gives 0, no fault (R132). -/
def execGfdiv (rd rs1 rs2 : RegNum) (s : State) : Result := s.finish rd (toWord (pdiv (s.x rs1).toNat (s.x rs2).toNat))

/-- GFMOD (R133). -/
def execGfmod (rd rs1 rs2 : RegNum) (n : BitVec 10) (s : State) : Result :=
  s.finish rd (toWord (pmod (s.x rs1).toNat (s.x rs2).toNat n.toNat))

/-- GFMULMOD: the full product is reduced (R134). -/
def execGfmulmod (rd rs1 rs2 rs3 : RegNum) (n : BitVec 10) (s : State) : Result :=
  s.finish rd (toWord (pmod (clmul (s.x rs1).toNat (s.x rs2).toNat) (s.x rs3).toNat n.toNat))

/-- GFINV, or DOMAIN_ERROR(a, m) (R135). -/
def execGfinv (rd rs1 rs2 : RegNum) (s : State) : Result :=
  match pinv (s.x rs1).toNat (s.x rs2).toNat with
  | none => s.raise .domainError (s.x rs1) (s.x rs2)
  | some v => s.finish rd (toWord v)

/-- GFDIVX32, or DOMAIN_ERROR(2^32, poly) (R136). -/
def execGfdivx32 (rd rs1 rs2 : RegNum) (s : State) : Result :=
  match pdivx32 (s.x rs1).toNat (s.x rs2).toNat with
  | none => s.raise .domainError (toWord x32) (s.x rs2)
  | some v => s.finish rd (toWord v)

end Sys2Proof.Machine
end

