-- ==== Sys2Proof/Machine/Reflection.lean ====
section
/-! DEFINITION. The two reflections (43_reflection.md): whole-word, and within each byte. They are not the same. -/

namespace Sys2Proof.Machine

/-- `rev_w(v)`: bit i of the result is bit w-1-i of v (00_scope.md R14). -/
def rev {w : Nat} (v : BitVec w) : BitVec w := v.reverse

/-- `rev_8` in each byte of a sequence. -/
def revEach (bytes : List Byte) : List Byte := bytes.map rev

/-- BREV32's function: `zext_64(rev_32(v[31:0]))` (R190). -/
def brev32 (v : Word) : Word := (rev (v.setWidth 32)).setWidth 64

/-- BREV8's function: `rev_8` in each of the 8 byte lanes (R191). -/
def brev8 (v : Word) : Word :=
  rev (v.extractLsb' 56 8) ++ rev (v.extractLsb' 48 8) ++ rev (v.extractLsb' 40 8) ++ rev (v.extractLsb' 32 8) ++
    rev (v.extractLsb' 24 8) ++ rev (v.extractLsb' 16 8) ++ rev (v.extractLsb' 8 8) ++ rev (v.extractLsb' 0 8)

/-- `brev8w(v)`: the same on a 32-bit value (R191). -/
def brev8w (v : Word32) : Word32 := (brev8 (v.setWidth 64)).setWidth 32

/-- BREV32 (R190). -/
def execBrev32 (rd rs1 : RegNum) (s : State) : Result := s.finish rd (brev32 (s.x rs1))

/-- BREV8 (R191). -/
def execBrev8 (rd rs1 : RegNum) (s : State) : Result := s.finish rd (brev8 (s.x rs1))

end Sys2Proof.Machine
end

