-- ==== Sys2Proof/Machine/Forge.lean ====
section
/-! DEFINITION. The forge engine (44_forge.md): the source's algorithm over CRC states, and FORGE, which verifies the
patch before it writes anything. -/

namespace Sys2Proof.Machine

/-- `pad`: the marker 08 08 08 08 or nothing (R210, step 2). -/
def padBytes (p : Bool) : List Byte := if p then beBytes 4 padWordConst.toNat else []

/-- `probe`: the checksum with a zero patch (R210, step 3). -/
def forgeProbe (S : Word32) (p : Bool) : Word32 := crcFinal (crcBytes S (padBytes p ++ [0, 0, 0, 0]))

/-- `corr`: the un-reflected delta divided by x^32 modulo the generator (R210, steps 4 to 6). The division never fails
for this modulus (41_gf2_arith.md R124), so the value in that case is never used. Log 14. -/
def forgeCorrection (S T : Word32) (p : Bool) : Nat :=
  (pdivx32 (rev (T ^^^ forgeProbe S p)).toNat generator).getD 0

/-- `patch`: the correction's bytes, each reflected (R210, steps 7 and 8). -/
def forgePatch (S T : Word32) (p : Bool) : List Byte := revEach (beBytes 4 (forgeCorrection S T p))

/-- The CRC state after pad ++ patch (R211). -/
def forgeState (S T : Word32) (p : Bool) : Word32 := crcBytes S (padBytes p ++ forgePatch S T p)

/-- `ForgeCore(S, T, p)`: the patch and the verification checksum `actual` (R210, steps 9 and 10). -/
def forgeCore (S T : Word32) (p : Bool) : List Byte × Word32 := (forgePatch S T p, crcFinal (forgeState S T p))

/-- FORGE: the patch into rd and CRC advanced over pad ++ patch, or VERIFY_FAILED(T, actual) with nothing written
(R211). By R212 the verification never fails. -/
def execForge (rd rs1 : RegNum) (p : Bool) (s : State) : Result :=
  let T := (s.x rs1).setWidth 32
  let (patch, actual) := forgeCore s.crc T p
  if actual = T then
    .next ((s.setX rd (toWord (beU patch))).setCrc (forgeState s.crc T p)).advance
  else s.raise .verifyFailed (T.setWidth 64) (actual.setWidth 64)

end Sys2Proof.Machine
end

