-- ==== Sys2Proof/Machine/Integer.lean ====
section
/-! DEFINITION. The integer register operations (45_sequencer.md R240 to R249): 64-bit, wrapping, no flags (R268). -/

namespace Sys2Proof.Machine

/-- ADD (R240). -/
def execAdd (rd rs1 rs2 : RegNum) (s : State) : Result := s.finish rd (s.x rs1 + s.x rs2)

/-- SUB (R241). -/
def execSub (rd rs1 rs2 : RegNum) (s : State) : Result := s.finish rd (s.x rs1 - s.x rs2)

/-- AND (R242). -/
def execAnd (rd rs1 rs2 : RegNum) (s : State) : Result := s.finish rd (s.x rs1 &&& s.x rs2)

/-- OR (R243). -/
def execOr (rd rs1 rs2 : RegNum) (s : State) : Result := s.finish rd (s.x rs1 ||| s.x rs2)

/-- XOR, also GF(2) addition and subtraction (R244). -/
def execXor (rd rs1 rs2 : RegNum) (s : State) : Result := s.finish rd (s.x rs1 ^^^ s.x rs2)

/-- ADDI (R245). -/
def execAddi (rd rs1 : RegNum) (imm : BitVec 18) (s : State) : Result := s.finish rd (s.x rs1 + immWord imm)

/-- SLLI (R246). -/
def execSlli (rd rs1 : RegNum) (shamt : BitVec 6) (s : State) : Result := s.finish rd (s.x rs1 <<< shamt.toNat)

/-- SRLI (R247). -/
def execSrli (rd rs1 : RegNum) (shamt : BitVec 6) (s : State) : Result := s.finish rd (s.x rs1 >>> shamt.toNat)

/-- MOVZ (R248). -/
def execMovz (rd : RegNum) (imm16 : BitVec 16) (hw : BitVec 2) (s : State) : Result := s.finish rd (laneWord imm16 hw)

/-- MOVK, which reads rd as a source (R249). -/
def execMovk (rd : RegNum) (imm16 : BitVec 16) (hw : BitVec 2) (s : State) : Result :=
  s.finish rd ((s.x rd &&& ~~~ laneMask hw) ||| laneWord imm16 hw)

end Sys2Proof.Machine
end

