-- ==== Sys2Proof/Machine/LoadStore.lean ====
section
/-! DEFINITION. Loads and stores (45_sequencer.md R250 to R256): big-endian, any alignment (20_memory.md R65, R66),
all or nothing (R64). -/

namespace Sys2Proof.Machine

/-- A load of n bytes at `ea`, zero-extended (20_memory.md R65, R67), or ADDR_FAULT(ea, n) (60_exceptions.md R305). -/
def State.load (s : State) (n : Nat) (rd : RegNum) (ea : Word) : Result :=
  if s.memCheck ea.toNat n then s.finish rd (BitVec.ofNat 64 (beU (s.memRead ea.toNat n)))
  else s.raise .addrFault ea (BitVec.ofNat 64 n)

/-- A store of the low 8n bits of `v` at `ea` (20_memory.md R65, R67), or ADDR_FAULT(ea, n) (60_exceptions.md R305). -/
def State.store (s : State) (n : Nat) (v : Word) (ea : Word) : Result :=
  if s.memCheck ea.toNat n then .next (s.memWrite ea.toNat (beBytes n v.toNat)).advance
  else s.raise .addrFault ea (BitVec.ofNat 64 n)

/-- LB (R250). -/
def execLb (rd rs1 : RegNum) (imm : BitVec 18) (s : State) : Result := s.load 1 rd (s.ea rs1 imm)

/-- LW (R251). -/
def execLw (rd rs1 : RegNum) (imm : BitVec 18) (s : State) : Result := s.load 4 rd (s.ea rs1 imm)

/-- LD (R252). -/
def execLd (rd rs1 : RegNum) (imm : BitVec 18) (s : State) : Result := s.load 8 rd (s.ea rs1 imm)

/-- SB (R253). -/
def execSb (rs2 rs1 : RegNum) (imm : BitVec 18) (s : State) : Result := s.store 1 (s.x rs2) (s.ea rs1 imm)

/-- SW (R254). -/
def execSw (rs2 rs1 : RegNum) (imm : BitVec 18) (s : State) : Result := s.store 4 (s.x rs2) (s.ea rs1 imm)

/-- SD (R255). -/
def execSd (rs2 rs1 : RegNum) (imm : BitVec 18) (s : State) : Result := s.store 8 (s.x rs2) (s.ea rs1 imm)

end Sys2Proof.Machine
end

