-- ==== Sys2Proof/Machine/System.lean ====
section
/-! DEFINITION. CSRR, CSRW and HALT (45_sequencer.md R265 to R267). There is one mode and no privileged instruction
(60_exceptions.md R312). -/

namespace Sys2Proof.Machine

/-- `zext_64(CSR[csr])` (10_state.md R39, R40). -/
def State.csr (s : State) : Csr → Word
  | .crc => s.crc.setWidth 64
  | .cause => s.cause.code.setWidth 64
  | .epc => s.epc.setWidth 64
  | .einfo0 => s.einfo0
  | .einfo1 => s.einfo1
  | .poly => polyConst
  | .polyref => polyRefConst
  | .crcinit => crcInitConst
  | .crcxorout => crcXorOutConst
  | .padword => padWordConst

/-- CSRR (R265). -/
def execCsrr (rd : RegNum) (csr : Csr) (s : State) : Result := s.finish rd (s.csr csr)

/-- CSRW of CRC, the only writable CSR: bits 31:0 of the source (R266). -/
def execCsrw (rs1 : RegNum) (s : State) : Result := s.finishCrc ((s.x rs1).setWidth 32)

/-- HALT: the run ends normally and pc points past the HALT (R267). -/
def execHalt (s : State) : Result := .next (s.setStatus .halted).advance

end Sys2Proof.Machine
end

