-- ==== Sys2Proof/Machine/Dispatch.lean ====
section
/-! DEFINITION. The meaning of each instruction, one arm per row of spec/opcode_table.json. -/

namespace Sys2Proof.Machine

def exec (i : Instr) (s : State) : Host.Outcome State Fault Refusal :=
  match i with
  | .add rd rs1 rs2 => Sys2Proof.Machine.execAdd rd rs1 rs2 s
  | .sub rd rs1 rs2 => Sys2Proof.Machine.execSub rd rs1 rs2 s
  | .and rd rs1 rs2 => Sys2Proof.Machine.execAnd rd rs1 rs2 s
  | .or rd rs1 rs2 => Sys2Proof.Machine.execOr rd rs1 rs2 s
  | .xor rd rs1 rs2 => Sys2Proof.Machine.execXor rd rs1 rs2 s
  | .addi rd rs1 imm => Sys2Proof.Machine.execAddi rd rs1 imm s
  | .slli rd rs1 shamt => Sys2Proof.Machine.execSlli rd rs1 shamt s
  | .srli rd rs1 shamt => Sys2Proof.Machine.execSrli rd rs1 shamt s
  | .movz rd imm16 hw => Sys2Proof.Machine.execMovz rd imm16 hw s
  | .movk rd imm16 hw => Sys2Proof.Machine.execMovk rd imm16 hw s
  | .lb rd rs1 imm => Sys2Proof.Machine.execLb rd rs1 imm s
  | .lw rd rs1 imm => Sys2Proof.Machine.execLw rd rs1 imm s
  | .ld rd rs1 imm => Sys2Proof.Machine.execLd rd rs1 imm s
  | .sb rs2 rs1 imm => Sys2Proof.Machine.execSb rs2 rs1 imm s
  | .sw rs2 rs1 imm => Sys2Proof.Machine.execSw rs2 rs1 imm s
  | .sd rs2 rs1 imm => Sys2Proof.Machine.execSd rs2 rs1 imm s
  | .beq rs1 rs2 off => Sys2Proof.Machine.execBeq rs1 rs2 off s
  | .bne rs1 rs2 off => Sys2Proof.Machine.execBne rs1 rs2 off s
  | .bltu rs1 rs2 off => Sys2Proof.Machine.execBltu rs1 rs2 off s
  | .csrr rd csr => Sys2Proof.Machine.execCsrr rd csr s
  | .csrw rs1 => Sys2Proof.Machine.execCsrw rs1 s
  | .halt => Sys2Proof.Machine.execHalt s
  | .crci => Sys2Proof.Machine.execCrci s
  | .crcb rs1 => Sys2Proof.Machine.execCrcb rs1 s
  | .crcu rs1 rs2 => Sys2Proof.Machine.execCrcu rs1 rs2 s
  | .crcf rd => Sys2Proof.Machine.execCrcf rd s
  | .brev32 rd rs1 => Sys2Proof.Machine.execBrev32 rd rs1 s
  | .brev8 rd rs1 => Sys2Proof.Machine.execBrev8 rd rs1 s
  | .clmul rd rs1 rs2 => Sys2Proof.Machine.execClmul rd rs1 rs2 s
  | .clmulh rd rs1 rs2 => Sys2Proof.Machine.execClmulh rd rs1 rs2 s
  | .gfdiv rd rs1 rs2 => Sys2Proof.Machine.execGfdiv rd rs1 rs2 s
  | .gfmod rd rs1 rs2 n => Sys2Proof.Machine.execGfmod rd rs1 rs2 n s
  | .gfmulmod rd rs1 rs2 rs3 n => Sys2Proof.Machine.execGfmulmod rd rs1 rs2 rs3 n s
  | .gfinv rd rs1 rs2 => Sys2Proof.Machine.execGfinv rd rs1 rs2 s
  | .gfdivx32 rd rs1 rs2 => Sys2Proof.Machine.execGfdivx32 rd rs1 rs2 s
  | .forge rd rs1 p => Sys2Proof.Machine.execForge rd rs1 p s

end Sys2Proof.Machine
end

