-- ==== Sys2Proof/Machine/HostPort.lean ====
section
/-! DEFINITION. What the host and the platform do to the engine (60_exceptions.md R320 to R327, 70_reset_and_hazards.md
R340 to R343): the register map, START, the two resets, and one access at a time. -/

namespace Sys2Proof.Machine

/-- What a host offset names (R321). -/
inductive HostReg where
  | ctrl | status | pc | cause | epc | einfo0 | einfo1 | crc
  | gpr (r : RegNum)
  | imem (i : Nat)
  | dmem (i : Nat)
  /-- "Every other offset": reads 0, ignores writes. -/
  | unmapped
  deriving DecidableEq, Repr

/-- The offset of a host address in the engine's map, which sits at HOST_BASE (R321, 20_memory.md R68); an address
below it is no access to this engine. Log 2. -/
def hostOffset (addr : Nat) : Option Nat := if Config.hostBase ≤ addr then some (addr - Config.hostBase) else none

/-- The three windows of the map (R321): general registers, IMEM words, DMEM bytes. -/
def hostWindow (p : Params) (offset : Nat) : HostReg :=
  if 0x100 ≤ offset ∧ offset < 0x180 ∧ offset % 8 = 0 then .gpr (BitVec.ofNat 4 ((offset - 0x100) / 8))
  else if 0x10000 ≤ offset ∧ offset % 4 = 0 ∧ (offset - 0x10000) / 4 < p.imemWords then .imem ((offset - 0x10000) / 4)
  else if 0x100000 ≤ offset ∧ offset - 0x100000 < p.dmemBytes then .dmem (offset - 0x100000)
  else .unmapped

/-- The register map (R321), by the offset of each row. Log 9. -/
def hostReg (p : Params) (offset : Nat) : HostReg :=
  match offset with
  | 0x000 => .ctrl
  | 0x008 => .status
  | 0x010 => .pc
  | 0x018 => .cause
  | 0x020 => .epc
  | 0x028 => .einfo0
  | 0x030 => .einfo1
  | 0x038 => .crc
  | _ => hostWindow p offset

/-- Whether an access of this many bits is one R321 describes: "Each access moves the whole width given". -/
def HostReg.widthOk (r : HostReg) (bits : Nat) : Bool :=
  match r with
  | .imem _ => bits == 32
  | .dmem _ => bits == 8
  | .unmapped => true
  | .ctrl | .status | .pc | .cause | .epc | .einfo0 | .einfo1 | .crc | .gpr _ => bits == 64

/-- What the host reads while the engine is not running (R321, R323). -/
def State.hostValue (s : State) : HostReg → Word
  | .ctrl => 0
  | .status => s.status.value
  | .pc => s.pc.setWidth 64
  | .cause => s.csr .cause
  | .epc => s.csr .epc
  | .einfo0 => s.csr .einfo0
  | .einfo1 => s.csr .einfo1
  | .crc => s.csr .crc
  | .gpr r => s.x r
  | .imem i => (s.word i).setWidth 64
  | .dmem i => (s.byte i).setWidth 64
  | .unmapped => 0

/-- What a host read returns (R323, R324): while the engine runs, STATUS, and 0 for everything else. -/
def State.hostReadValue (s : State) (r : HostReg) : Word :=
  if s.status = .running then (if r = .status then s.status.value else 0) else s.hostValue r

/-- CTRL.START of an engine that is not running (R322): pc, registers, CRC, EPC and memories keep their values. -/
def State.start (s : State) : State := { s with status := .running, cause := .none, einfo0 := 0, einfo1 := 0 }

/-- Every register of 70_reset_and_hazards.md R340 at its reset value: the soft reset (R342), which keeps IMEM and DMEM. -/
def State.softReset (s : State) : State :=
  { s with
    regs := Vector.replicate 15 0, pc := 0, crc := crcInit, status := .idle, cause := .none, epc := 0, einfo0 := 0,
    einfo1 := 0 }

/-- Power-on reset (70_reset_and_hazards.md R343): the registers as in a soft reset, and a new draw of both memories. -/
def State.powerOnReset (s : State) : State :=
  { s.softReset with imem := [], dmem := [], powerOns := s.powerOns + 1 }

/-- A write to CTRL (R322, R324, R325): RESET wins over START, START acts only when the engine is not running. -/
def State.writeCtrl (s : State) (v : Word) : State :=
  if v.getLsbD 1 then s.softReset
  else if v.getLsbD 0 ∧ s.status ≠ .running then s.start
  else s

/-- A host write while the engine is not running (R321, R323). -/
def State.hostStore (s : State) (r : HostReg) (v : Word) : State :=
  match r with
  | .ctrl => s.writeCtrl v
  | .pc => s.setPc (v.setWidth 32)
  | .crc => s.setCrc (v.setWidth 32)
  | .gpr r => s.setX r v
  | .imem i => s.setWord i (v.setWidth 32)
  | .dmem i => s.memWrite i [v.setWidth 8]
  | .status | .cause | .epc | .einfo0 | .einfo1 | .unmapped => s

/-- A host write (R323, R324): while the engine runs only CTRL counts, and of it only RESET. -/
def State.hostWriteState (s : State) (r : HostReg) (v : Word) : State :=
  if s.status = .running then (if r = .ctrl then s.writeCtrl v else s) else s.hostStore r v

/-- A value returned to the host joins the replies. Log 7. -/
def State.reply (s : State) (v : Word) : State := { s with replies := s.replies ++ [v] }

/-- One host read (R323, R324). -/
def State.hostRead (s : State) (bits offset : Nat) : Result :=
  let r := hostReg s.params offset
  if r.widthOk bits then .next (s.reply (s.hostReadValue r))
  else .refused .hostAccessWidth

/-- One host write. -/
def State.hostWrite (s : State) (bits offset : Nat) (v : Word) : Result :=
  let r := hostReg s.params offset
  if r.widthOk bits then .next (s.hostWriteState r v) else .refused .hostAccessWidth

end Sys2Proof.Machine
end

