-- ==== Sys2Proof/Machine/Engine.lean ====
section
/-! DEFINITION. One engine step (45_sequencer.md R269), and whose turn it is: the engine's or an input's
(20_memory.md R70, 60_exceptions.md R324). -/

namespace Sys2Proof.Machine

/-- Fetch (R269): `none` when pc >= IMEM_WORDS, else the word of IMEM at pc. -/
def State.fetch (s : State) : Option Word32 :=
  if s.pc.toNat < s.params.imemWords then some (s.word s.pc.toNat) else none

/-- Decode and execute a fetched word, or ILLEGAL_INSTRUCTION(w, 0) (R269, 60_exceptions.md R304). -/
def State.execWord (s : State) (w : Word32) : Result :=
  match decode w with
  | .error _ => s.raise .illegalInstruction (w.setWidth 64) 0
  | .ok i => exec i s

/-- `Step()` of a running engine, with FETCH_FAULT(pc, 0) first (R269, 60_exceptions.md R303, R308). -/
def State.runStep (s : State) : Result :=
  match s.fetch with
  | none => s.raise .fetchFault (s.pc.setWidth 64) 0
  | some w => s.execWord w

/-- The engine's turn: while STATUS is not RUNNING it does nothing and keeps all its state (R269, 60_exceptions.md R315).
Log 12. -/
def State.engineStep (s : State) : Result := if s.status = .running then s.runStep else .next s

/-- One input lands (60_exceptions.md R323 to R325, 70_reset_and_hazards.md R343), or the engine has its turn. -/
def State.land (s : State) : Input → Result
  | .engineTurn => s.engineStep
  | .read bits offset => s.hostRead bits offset
  | .write bits offset v => s.hostWrite bits offset v
  | .powerOn => .next s.powerOnReset

/-- The inputs still to come. -/
def State.setInputs (s : State) (pending : List Input) : State := { s with inputs := pending }

/-- The next turn: the first input that is due, or the engine when none is pending. Log 6. -/
def State.turn (s : State) : Result :=
  match s.inputs with
  | [] => s.engineStep
  | i :: rest => (s.setInputs rest).land i

/-- `s` with the engine's turn next. -/
def State.engineNext (s : State) : State :=
  match s.inputs with
  | [] => s
  | pending => s.setInputs (.engineTurn :: pending)

/-- `s` with `w` at the word its pc names, the engine running and its turn next. A pc outside IMEM names no word: it is
then moved to word 0, which every legal IMEM has. Log 11. -/
def State.placeWord (s : State) (w : Word32) : State :=
  let t := if s.pc.toNat < s.params.imemWords then s else s.setPc 0
  ((t.setWord t.pc.toNat w).setStatus .running).engineNext

end Sys2Proof.Machine
end

