-- ==== Sys2Proof/Machine/Step.lean ====
section
/-! DEFINITION. One step of the machine, and placing an instruction where the next step fetches it. -/

namespace Sys2Proof.Machine

/-- One step: the next turn (`State.turn`), on a machine whose parameters the spec allows (00_scope.md R9, log 8). -/
def step (s : State) : Host.Outcome State Fault Refusal :=
  if s.params.legal then s.turn else .fault .illegalParameters

/-- `s` with the opcode-table word `w` of `nbits` bits where the next step fetches: the IMEM word at pc, in an engine
that has been started (log 11). -/
def State.withFetchWord (s : State) (nbits w : Nat) : State := s.placeWord (BitVec.ofNat 32 (w % 2 ^ nbits))

end Sys2Proof.Machine
end

