-- ==== Sys2Proof/Machine/Assembler.lean ====
section
/-! DEFINITION. The assembler of 30_encoding.md R110 to R112: operand syntax, operand order, and the exact expansions of
the pseudo-instructions. It is no part of the machine's step; it says which words a line of a program stands for. Log 19. -/

namespace Sys2Proof.Machine

/-! ### Pseudo-instructions (R112) -/

/-- `nop`. -/
def pseudoNop : List Instr := [.add 0 0 0]

/-- `mv rd, rs`. -/
def pseudoMv (rd rs : RegNum) : List Instr := [.addi rd rs 0]

/-- Lane h of a 64-bit constant, `c_h = v[16h+15:16h]`. -/
def laneOf (v : Word) (h : Nat) : BitVec 16 := v.extractLsb' (16 * h) 16

/-- `li rd, v`: MOVZ of lane 0, then MOVK of each nonzero lane 1 to 3, in increasing order. -/
def pseudoLi (rd : RegNum) (v : Word) : List Instr :=
  .movz rd (laneOf v 0) 0 ::
    (([1, 2, 3] : List Nat).filter fun h => laneOf v h != 0).map fun h => .movk rd (laneOf v h) (BitVec.ofNat 2 h)

/-- `j target`. -/
def pseudoJ (off : BitVec 18) : List Instr := [.beq 0 0 off]

/-- `beqz rs, target`. -/
def pseudoBeqz (rs : RegNum) (off : BitVec 18) : List Instr := [.beq rs 0 off]

/-- `bnez rs, target`. -/
def pseudoBnez (rs : RegNum) (off : BitVec 18) : List Instr := [.bne rs 0 off]

/-- `crc32 rd, ra, rn`: the source's `crc32(data)` over DMEM; overwrites CRC. -/
def pseudoCrc32 (rd ra rn : RegNum) : List Instr := [.crci, .crcu ra rn, .crcf rd]

/-- `lipoly rd`. -/
def pseudoLipoly (rd : RegNum) : List Instr := [.csrr rd .poly]

/-! ### Tokens and operands (R110) -/

/-- A token of a line: a word, or one of the marks `,` `(` `)` `:`. -/
inductive AsmTok where
  | word (w : List Char)
  | comma | lpar | rpar | colon
  deriving DecidableEq, Repr

/-- A word read so far, put before the tokens after it. -/
def flushWord (cur : List Char) (rest : List AsmTok) : List AsmTok :=
  if cur.isEmpty then rest else .word cur.reverse :: rest

/-- The tokens of a line; `cur` is the word being read, backwards. A `;` starts a comment. -/
def tokens : List Char → List Char → List AsmTok
  | [], cur => flushWord cur []
  | c :: cs, cur =>
    if c = ';' then flushWord cur []
    else if c = ' ' || c = '\t' then flushWord cur (tokens cs [])
    else if c = ',' then flushWord cur (.comma :: tokens cs [])
    else if c = '(' then flushWord cur (.lpar :: tokens cs [])
    else if c = ')' then flushWord cur (.rpar :: tokens cs [])
    else if c = ':' then flushWord cur (.colon :: tokens cs [])
    else tokens cs (c :: cur)

/-- An operand as written: a word, or `imm(reg)`. -/
inductive AsmOperand where
  | plain (w : List Char)
  | mem (imm reg : List Char)
  deriving DecidableEq, Repr

/-- The operands of an instruction, separated by commas. -/
def operands : List AsmTok → Option (List AsmOperand)
  | [] => some []
  | [.word w] => some [.plain w]
  | [.word i, .lpar, .word r, .rpar] => some [.mem i r]
  | .word w :: .comma :: t :: rest => (operands (t :: rest)).map (.plain w :: ·)
  | _ => none

/-- Letters compared without case (mnemonics and register names, R110). -/
def lower (w : List Char) : List Char := w.map Char.toLower

/-- The value of a digit in a base. -/
def digitValue (base : Nat) (c : Char) : Option Nat :=
  let n := c.toNat
  let v := if 48 ≤ n ∧ n ≤ 57 then some (n - 48)
    else if 97 ≤ n ∧ n ≤ 102 then some (n - 87)
    else if 65 ≤ n ∧ n ≤ 70 then some (n - 55)
    else none
  v.bind fun d => if d < base then some d else none

/-- The value of a nonempty run of digits. -/
def digitsValue (base : Nat) (w : List Char) : Option Nat :=
  if w.isEmpty then none
  else w.foldl (fun acc c => acc.bind fun a => (digitValue base c).map fun d => a * base + d) (some 0)

/-- An unsigned immediate: decimal, or hexadecimal with a `0x` prefix. -/
def unsignedValue : List Char → Option Nat
  | '0' :: 'x' :: digits => digitsValue 16 digits
  | digits => digitsValue 10 digits

/-- An immediate, optionally negative. -/
def immediate : List Char → Option Int
  | '-' :: w => (unsignedValue w).map fun n => -(n : Int)
  | w => (unsignedValue w).map fun n => (n : Int)

/-- An immediate that must fit a sign-extended field of n bits; refused if it does not. -/
def fitSigned (n : Nat) (v : Int) : Option (BitVec n) :=
  if -(2 ^ (n - 1)) ≤ v ∧ v < 2 ^ (n - 1) then some (BitVec.ofInt n v) else none

/-- An immediate that must fit a zero-extended field of n bits; refused if it does not. -/
def fitUnsigned (n : Nat) (v : Int) : Option (BitVec n) :=
  if 0 ≤ v ∧ v < 2 ^ n then some (BitVec.ofInt n v) else none

/-- An unsigned field written as an immediate. -/
def unsignedField (n : Nat) (w : List Char) : Option (BitVec n) := (immediate w).bind (fitUnsigned n)

/-- An imm18 field written as an immediate. -/
def imm18Field (w : List Char) : Option (BitVec 18) := (immediate w).bind (fitSigned 18)

/-- The mask width n, refused above 64. -/
def maskWidthField (w : List Char) : Option (BitVec 10) :=
  (unsignedField 10 w).bind fun n => if maskWidthOk n then some n else none

/-- A register name `r0` to `r15`. -/
def register (w : List Char) : Option RegNum :=
  (["r0", "r1", "r2", "r3", "r4", "r5", "r6", "r7", "r8", "r9", "r10", "r11", "r12", "r13", "r14", "r15"].findIdx?
    fun n => n.toList == lower w).map (BitVec.ofNat 4)

/-- The ten CSR names of R110. -/
def csrNames : List (String × Csr) :=
  [("crc", .crc), ("cause", .cause), ("epc", .epc), ("einfo0", .einfo0), ("einfo1", .einfo1), ("poly", .poly),
    ("polyref", .polyref), ("crcinit", .crcinit), ("crcxorout", .crcxorout), ("padword", .padword)]

/-- A value of a table keyed by names. -/
def named {α : Type} (table : List (String × α)) (w : List Char) : Option α :=
  (table.find? fun e => e.1.toList == w).map (·.2)

/-- A CSR operand, by name or by number. Any 12-bit number is accepted; an unassigned one gives an illegal word
(95_test_vectors.md V-SQ-19, V-SQ-20). A CSR name is compared with its case, written as R110 writes it: DESIGN CHOICE,
since R110 does not say whether CSR names are among the case-insensitive "register names" (log 19). -/
def csrOperand (w : List Char) : Option (BitVec 12) :=
  match named csrNames w with
  | some c => some c.number
  | none => unsignedField 12 w

/-! ### Operand order (R111) -/

/-- `op rd, rs1, rs2`. -/
def namesR3 : List (String × (RegNum → RegNum → RegNum → Instr)) :=
  [("add", .add), ("sub", .sub), ("and", .and), ("or", .or), ("xor", .xor), ("clmul", .clmul), ("clmulh", .clmulh),
    ("gfdiv", .gfdiv), ("gfinv", .gfinv), ("gfdivx32", .gfdivx32)]

/-- `op rd, rs1`. -/
def namesR2 : List (String × (RegNum → RegNum → Instr)) := [("brev32", .brev32), ("brev8", .brev8)]

/-- `op rd, rs1, shamt`. -/
def namesShift : List (String × (RegNum → RegNum → BitVec 6 → Instr)) := [("slli", .slli), ("srli", .srli)]

/-- `op rd, imm16, hw`. -/
def namesMove : List (String × (RegNum → BitVec 16 → BitVec 2 → Instr)) := [("movz", .movz), ("movk", .movk)]

/-- `op rd, imm(rs1)` and `op rs2, imm(rs1)`. -/
def namesMem : List (String × (RegNum → RegNum → BitVec 18 → Instr)) :=
  [("lb", .lb), ("lw", .lw), ("ld", .ld), ("sb", .sb), ("sw", .sw), ("sd", .sd)]

/-- `op rs1, rs2, target`. -/
def namesBranch : List (String × (RegNum → RegNum → BitVec 18 → Instr)) :=
  [("beq", .beq), ("bne", .bne), ("bltu", .bltu)]

/-- A branch target: a numeric word offset, or a label L at index t, `off = t - pc`. -/
def branchOperand (labels : List Char → Option Nat) (pc : Nat) (w : List Char) : Option (BitVec 18) :=
  match immediate w with
  | some v => fitSigned 18 v
  | none => (labels w).bind fun t => fitSigned 18 ((t : Int) - (pc : Int))

/-- One instruction as a list. -/
def single (i : Instr) : List Word32 := [encode i]

/-- The words of an instruction without operands or with register operands only. -/
def asmRegs (m : List Char) (ops : List AsmOperand) : Option (List Word32) :=
  match ops with
  | [] =>
    if m == "halt".toList then some (single .halt)
    else if m == "crci".toList then some (single .crci)
    else if m == "nop".toList then some (pseudoNop.map encode)
    else none
  | [.plain a] =>
    (register a).bind fun r =>
      if m == "crcb".toList then some (single (.crcb r))
      else if m == "crcf".toList then some (single (.crcf r))
      else if m == "lipoly".toList then some ((pseudoLipoly r).map encode)
      else none
  | [.plain a, .plain b] =>
    (register a).bind fun ra => (register b).bind fun rb =>
      if m == "crcu".toList then some (single (.crcu ra rb))
      else if m == "mv".toList then some ((pseudoMv ra rb).map encode)
      else (named namesR2 m).map fun f => single (f ra rb)
  | [.plain a, .plain b, .plain c] =>
    (register a).bind fun ra => (register b).bind fun rb => (register c).bind fun rc =>
      if m == "crc32".toList then some ((pseudoCrc32 ra rb rc).map encode)
      else (named namesR3 m).map fun f => single (f ra rb rc)
  | _ => none

/-- The words of an instruction with an immediate, a lane, a CSR or a constant. -/
def asmImm (m : List Char) (ops : List AsmOperand) : Option (List Word32) :=
  match ops with
  | [.plain a, .plain b] =>
    if m == "csrr".toList then
      (register a).bind fun rd => (csrOperand b).map fun n => [formatI 0x1C rd 0 (0#6 ++ n)]
    else if m == "csrw".toList then
      (csrOperand a).bind fun n => (register b).map fun rs => [formatI 0x1D 0 rs (0#6 ++ n)]
    else if m == "li".toList then
      (register a).bind fun rd => (immediate b).bind fun v =>
        if -(2 ^ 63) ≤ v ∧ v < 2 ^ 64 then some ((pseudoLi rd (BitVec.ofInt 64 v)).map encode) else none
    else none
  | [.plain a, .mem i r] =>
    (named namesMem m).bind fun f => (register a).bind fun ra => (register r).bind fun rb =>
      (imm18Field i).map fun imm => single (f ra rb imm)
  | [.plain a, .plain b, .plain c] =>
    (register a).bind fun ra =>
      match named namesMove m with
      | some f => (unsignedField 16 b).bind fun imm => (unsignedField 2 c).map fun hw => single (f ra imm hw)
      | none =>
        (register b).bind fun rb =>
          match named namesShift m with
          | some f => (unsignedField 6 c).map fun sh => single (f ra rb sh)
          | none =>
            if m == "addi".toList then (imm18Field c).map fun imm => single (.addi ra rb imm)
            else if m == "forge".toList then (unsignedField 1 c).map fun p => single (.forge ra rb (p.getLsbD 0))
            else none
  | [.plain a, .plain b, .plain c, .plain d] =>
    if m == "gfmod".toList then
      (register a).bind fun rd => (register b).bind fun r1 => (register c).bind fun r2 =>
        (maskWidthField d).map fun n => single (.gfmod rd r1 r2 n)
    else none
  | [.plain a, .plain b, .plain c, .plain d, .plain e] =>
    if m == "gfmulmod".toList then
      (register a).bind fun rd => (register b).bind fun r1 => (register c).bind fun r2 => (register d).bind fun r3 =>
        (maskWidthField e).map fun n => single (.gfmulmod rd r1 r2 r3 n)
    else none
  | _ => none

/-- The words of a branch, with its target resolved. -/
def asmBranch (labels : List Char → Option Nat) (pc : Nat) (m : List Char) (ops : List AsmOperand) :
    Option (List Word32) :=
  match ops with
  | [.plain t] => if m == "j".toList then (branchOperand labels pc t).map fun off => (pseudoJ off).map encode else none
  | [.plain a, .plain t] =>
    (register a).bind fun r => (branchOperand labels pc t).bind fun off =>
      if m == "beqz".toList then some ((pseudoBeqz r off).map encode)
      else if m == "bnez".toList then some ((pseudoBnez r off).map encode)
      else none
  | [.plain a, .plain b, .plain t] =>
    (named namesBranch m).bind fun f => (register a).bind fun ra => (register b).bind fun rb =>
      (branchOperand labels pc t).map fun off => single (f ra rb off)
  | _ => none

/-- The label of a line, if it has one, and the rest of the line. -/
def splitLabel : List AsmTok → Option (List Char) × List AsmTok
  | .word l :: .colon :: rest => (some l, rest)
  | line => (none, line)

/-- The words of a line without its label; an empty line has none. -/
def asmLine (labels : List Char → Option Nat) (pc : Nat) : List AsmTok → Option (List Word32)
  | [] => some []
  | .word m :: rest =>
    (operands rest).bind fun ops =>
      (asmRegs (lower m) ops).or ((asmImm (lower m) ops).or (asmBranch labels pc (lower m) ops))
  | _ => none

/-- The first pass: the index of every label, taking an unresolved target as offset 0 (no expansion depends on it). -/
def labelTable : List (List AsmTok) → Nat → List (List Char × Nat)
  | [], _ => []
  | line :: rest, pc =>
    let (label, body) := splitLabel line
    let size := ((asmLine (fun _ => some pc) pc body).getD []).length
    match label with
    | some l => (l, pc) :: labelTable rest (pc + size)
    | none => labelTable rest (pc + size)

/-- The second pass: the words of every line. -/
def asmLines (labels : List Char → Option Nat) : List (List AsmTok) → Nat → Option (List Word32)
  | [], _ => some []
  | line :: rest, pc =>
    (asmLine labels pc (splitLabel line).2).bind fun ws => (asmLines labels rest (pc + ws.length)).map (ws ++ ·)

/-- The words of a program, from index 0; `none` where a line is refused. -/
def assemble (program : List String) : Option (List Word32) :=
  let lines := program.map fun l => tokens l.toList []
  let table := labelTable lines 0
  asmLines (fun l => (table.find? fun e => e.1 == l).map (·.2)) lines 0

end Sys2Proof.Machine
end

