-- ==== Sys2Proof/Safety.lean ====
section
/-! DEFINITION. What counts as a well-formed state, and the vocabulary of the statements: what a step changed and what
it left alone, said through the reads of a register, a byte and a word, never through the model's own updates. -/

namespace Sys2Proof.Machine

/-! ### Well-formed states -/

/-- Both memories are in canonical form and list only cells that exist (20_memory.md R60, R61, R68). -/
abbrev State.memoriesOk (s : State) : Prop :=
  s.imem.wf ∧ (∀ c ∈ s.imem, c.1 < s.params.imemWords) ∧ s.dmem.wf ∧ ∀ c ∈ s.dmem, c.1 < s.params.dmemBytes

/-- The fault record agrees with STATUS (10_state.md R35 to R37): the engine is faulted exactly when CAUSE is not NONE,
and without a cause EINFO0 and EINFO1 are 0. -/
abbrev State.recordOk (s : State) : Prop :=
  (s.status = .faulted ↔ s.cause ≠ .none) ∧ (s.cause = .none → s.einfo0 = 0 ∧ s.einfo1 = 0)

/-! ### Frames -/

/-- What no CE1 instruction ever changes: the parameters, IMEM (20_memory.md R60), and what belongs to the host's side. -/
structure SameOutside (s t : State) : Prop where
  params : t.params = s.params
  word : ∀ i, t.word i = s.word i
  powerOns : t.powerOns = s.powerOns
  inputs : t.inputs = s.inputs
  replies : t.replies = s.replies

/-- The fault record is unchanged. -/
structure SameRecord (s t : State) : Prop where
  cause : t.cause = s.cause
  epc : t.epc = s.epc
  einfo0 : t.einfo0 = s.einfo0
  einfo1 : t.einfo1 = s.einfo1

/-- Every byte of data memory reads as before. -/
def SameBytes (s t : State) : Prop := ∀ a, t.byte a = s.byte a

/-- Every general register reads as before. -/
def SameRegs (s t : State) : Prop := ∀ r, t.x r = s.x r

/-- The general registers after `x[rd] <- v`: r0 still reads 0, rd reads v, every other register as before. -/
def WroteReg (s t : State) (rd : RegNum) (v : Word) : Prop := ∀ r, t.x r = if r = rd ∧ r ≠ 0 then v else s.x r

/-- `t` is `s` after an instruction whose only effect is `x[rd] <- v` and the default next pc. -/
structure RegResult (s t : State) (rd : RegNum) (v : Word) : Prop where
  regs : WroteReg s t rd v
  pc : t.pc = s.pc + 1
  crc : t.crc = s.crc
  status : t.status = s.status
  record : SameRecord s t
  bytes : SameBytes s t
  outside : SameOutside s t

/-- `t` is `s` after an instruction whose only effect is `CRC <- c` and the default next pc. -/
structure CrcResult (s t : State) (c : Word32) : Prop where
  regs : SameRegs s t
  pc : t.pc = s.pc + 1
  crc : t.crc = c
  status : t.status = s.status
  record : SameRecord s t
  bytes : SameBytes s t
  outside : SameOutside s t

/-- `t` is `s` after an instruction whose only effect is on the pc. -/
structure PcResult (s t : State) (pc : Word32) : Prop where
  regs : SameRegs s t
  pc : t.pc = pc
  crc : t.crc = s.crc
  status : t.status = s.status
  record : SameRecord s t
  bytes : SameBytes s t
  outside : SameOutside s t

/-- `t` is `s` after an instruction whose only effect is to store `stored` from address `a` upwards, and the default
next pc: byte `a + i` holds the i-th of them, every other byte reads as before. -/
structure StoreResult (s t : State) (a : Nat) (stored : List Byte) : Prop where
  regs : SameRegs s t
  pc : t.pc = s.pc + 1
  crc : t.crc = s.crc
  status : t.status = s.status
  record : SameRecord s t
  inside : ∀ i b, stored[i]? = some b → t.byte (a + i) = b
  others : ∀ b, b < a ∨ a + stored.length ≤ b → t.byte b = s.byte b
  outside : SameOutside s t

/-- `t` is `s` after taking the fault C(e0, e1) (60_exceptions.md R301): only the fault record and STATUS changed. -/
structure FaultEntry (s t : State) (c : Cause) (e0 e1 : Word) : Prop where
  cause : t.cause = c
  epc : t.epc = s.pc
  einfo0 : t.einfo0 = e0
  einfo1 : t.einfo1 = e1
  status : t.status = .faulted
  pc : t.pc = s.pc
  regs : SameRegs s t
  crc : t.crc = s.crc
  bytes : SameBytes s t
  outside : SameOutside s t

/-! ### The encoding, said from the formats rather than from the decoder's masks -/

/-- The 28 reserved opcodes (30_encoding.md R100). -/
def reservedOpcodes : List Nat :=
  [0x00, 0x0B, 0x0C, 0x0D, 0x0E, 0x0F, 0x16, 0x17, 0x1B, 0x1E, 0x24, 0x25, 0x26, 0x27, 0x2A, 0x2B, 0x2C, 0x2D, 0x2E, 0x2F,
    0x37, 0x39, 0x3A, 0x3B, 0x3C, 0x3D, 0x3E, 0x3F]

/-- Bits `lo` to `lo + n - 1` of a word are all 0. -/
def bitsZero (w : Word32) (lo n : Nat) : Prop := ∀ i, lo ≤ i → i < lo + n → w.getLsbD i = false

/-- The reserved-zero fields of the word's format are 0, by opcode (30_encoding.md R91 to R99). For CSRW the csr field
is R102 (e)'s; for GFMOD and GFMULMOD the imm10 field is R102 (c)'s. -/
def reservedFieldsZero (w : Word32) : Prop :=
  match (opcodeOf w).toNat with
  | 0x01 | 0x02 | 0x03 | 0x04 | 0x05 => bitsZero w 10 4 ∧ bitsZero w 0 10
  | 0x07 | 0x08 => bitsZero w 6 12
  | 0x09 | 0x0A => bitsZero w 16 4
  | 0x1C => bitsZero w 18 4 ∧ bitsZero w 12 6
  | 0x1D => bitsZero w 22 4 ∧ bitsZero w 12 6
  | 0x1F | 0x20 => bitsZero w 0 26
  | 0x21 => bitsZero w 22 4 ∧ bitsZero w 14 4 ∧ bitsZero w 10 4 ∧ bitsZero w 0 10
  | 0x22 => bitsZero w 22 4 ∧ bitsZero w 10 4 ∧ bitsZero w 0 10
  | 0x23 => bitsZero w 18 4 ∧ bitsZero w 14 4 ∧ bitsZero w 10 4 ∧ bitsZero w 0 10
  | 0x28 | 0x29 => bitsZero w 14 4 ∧ bitsZero w 10 4 ∧ bitsZero w 0 10
  | 0x30 | 0x31 | 0x32 | 0x35 | 0x36 => bitsZero w 10 4 ∧ bitsZero w 0 10
  | 0x33 => bitsZero w 10 4
  | 0x38 => bitsZero w 14 4 ∧ bitsZero w 10 4 ∧ bitsZero w 1 9
  | _ => True

/-- The assigned CSR numbers (10_state.md R39). -/
def assignedCsrs : List Nat := [0x001, 0x002, 0x003, 0x004, 0x005, 0x010, 0x011, 0x012, 0x013, 0x014]

/-- The word is illegal, by the five cases of 30_encoding.md R102. -/
def IllegalWord (w : Word32) : Prop :=
  (opcodeOf w).toNat ∈ reservedOpcodes ∨
  ¬ reservedFieldsZero w ∨
  (((opcodeOf w).toNat = 0x33 ∨ (opcodeOf w).toNat = 0x34) ∧ 64 < (imm10Of w).toNat) ∨
  ((opcodeOf w).toNat = 0x1C ∧ (csrFieldOf w).toNat ∉ assignedCsrs) ∨
  ((opcodeOf w).toNat = 0x1D ∧ csrFieldOf w ≠ 0x001)

/-- Every word that matches `mask` and `mtch` is the instruction `instr` reads from its fields (30_encoding.md R101). -/
def Encodes (mask mtch : Word32) (instr : Word32 → Instr) : Prop := ∀ w, w &&& mask = mtch → decode w = .ok (instr w)

/-- Bits 25:22 of a word. -/
abbrev bits25to22 (w : Word32) : RegNum := w.extractLsb' 22 4
/-- Bits 21:18 of a word. -/
abbrev bits21to18 (w : Word32) : RegNum := w.extractLsb' 18 4
/-- Bits 17:14 of a word. -/
abbrev bits17to14 (w : Word32) : RegNum := w.extractLsb' 14 4
/-- Bits 13:10 of a word. -/
abbrev bits13to10 (w : Word32) : RegNum := w.extractLsb' 10 4
/-- Bits 17:0 of a word. -/
abbrev bits17to0 (w : Word32) : BitVec 18 := w.extractLsb' 0 18

/-! ### The machine about to step -/

/-- The engine runs, nothing from outside is due, and the parameters are legal: the next step is the engine's. -/
structure EngineDue (s : State) : Prop where
  legal : s.params.legal
  quiet : s.inputs = []
  running : s.status = .running

/-- The next step is a host write of `v` of `bits` bits at `offset`; `rest` comes after it. -/
structure WriteDue (s : State) (bits offset : Nat) (v : Word) (rest : List Input) : Prop where
  legal : s.params.legal
  due : s.inputs = .write bits offset v :: rest

/-- The next step is a host read of `bits` bits at `offset`; `rest` comes after it. -/
structure ReadDue (s : State) (bits offset : Nat) (rest : List Input) : Prop where
  legal : s.params.legal
  due : s.inputs = .read bits offset :: rest

/-- `t` is `s` after a host read that returned `v`: only the pending inputs and the replies changed. -/
structure ReadResult (s t : State) (rest : List Input) (v : Word) : Prop where
  eq : t = { s with inputs := rest, replies := s.replies ++ [v] }

/-- The registers of 70_reset_and_hazards.md R340 at their reset values. -/
structure ResetRegs (t : State) : Prop where
  regs : ∀ r, t.x r = 0
  pc : t.pc = 0
  crc : t.crc = 0xFFFFFFFF
  status : t.status = .idle
  cause : t.cause = .none
  epc : t.epc = 0
  einfo0 : t.einfo0 = 0
  einfo1 : t.einfo1 = 0

/-- Both memories read as before, cell by cell. -/
structure SameMemories (s t : State) : Prop where
  byte : ∀ a, t.byte a = s.byte a
  word : ∀ i, t.word i = s.word i

/-! ### The host's register map, said from its rows -/

/-- The rows of the register map with their widths in bits, as the table of 60_exceptions.md R321 lists them:
`HostRow p offset bits` says that a row of `bits` bits stands at `offset`. -/
inductive HostRow (p : Params) : Nat → Nat → Prop
  /-- CTRL, STATUS, PC, CAUSE, EPC, EINFO0, EINFO1 and CRC. -/
  | register (offset : Nat) (h : offset ∈ [0x000, 0x008, 0x010, 0x018, 0x020, 0x028, 0x030, 0x038]) : HostRow p offset 64
  | gpr (i : Nat) (h : i < 16) : HostRow p (0x100 + 8 * i) 64
  | imem (i : Nat) (h : i < p.imemWords) : HostRow p (0x10000 + 4 * i) 32
  | dmem (i : Nat) (h : i < p.dmemBytes) : HostRow p (0x100000 + i) 8

/-- "Every other offset" of R321: no row stands at it. An offset inside a row but not at its start is one (log 9). -/
def OtherOffset (p : Params) (offset : Nat) : Prop := ∀ bits, ¬ HostRow p offset bits

/-! ### Byte sequences and polynomials -/

/-- The bytes of data memory at `a, ..., a + n - 1`, in ascending address order (20_memory.md R63). -/
def State.bytesAt (s : State) (a n : Nat) : List Byte := (List.range n).map fun i => s.byte (a + i)

/-- Coefficient k of the product of two polynomials over GF(2): the parity of the number of ways to write k = i + j
with coefficient i of a and coefficient j of b both 1 (00_scope.md R13). -/
def productBit (a b k : Nat) : Bool := ((List.range (k + 1)).countP fun j => a.testBit (k - j) && b.testBit j) % 2 == 1

/-- `M(s)` of 42_crc32.md R163 (b): a coefficient 1 at degree 8n - 1 - (8j + i) for each bit i that is set in byte j of
the n bytes of s; that is, the bytes in order, each with its bits reversed, read big-endian. -/
def messagePoly (bytes : List Byte) : Nat := beU (revEach bytes)

/-- The bytes of a 32-bit value in reverse order, the `bswap32` of 43_reflection.md R192 (b). -/
def bswap32 (v : Word32) : Word32 := v.extractLsb' 0 8 ++ v.extractLsb' 8 8 ++ v.extractLsb' 16 8 ++ v.extractLsb' 24 8

/-- Two byte sequences XORed bytewise. -/
def xorBytes (u v : List Byte) : List Byte := List.zipWith (· ^^^ ·) u v

end Sys2Proof.Machine
end

