-- ==== Sys2Proof/Certificates/Slice0/Obligations.lean ====
section
/-! DEFINITION. The statements for the provers. Each says which rules of the spec it formalises; `derived` statements
and choices of the model say so. Nothing here is proved. -/

open Sys2Proof Sys2Proof.Machine

/-! ### Encoding (30_encoding.md) -/

/-- Decode and encode agree on every well-formed instruction, every operand at every value its encoding admits
(30_encoding.md R92 to R101, R105): no bit of an operand is dropped or moved. Derived. -/
def Obligations.DecodeOfEncodeIsTheInstruction : Prop :=
  ∀ i : Instr, i.WellFormed → decode (encode i) = .ok i

/-- A word that decodes has no other spelling: it is the encoding of the instruction it decodes to, which is
well-formed. No two words share an instruction, because every unused bit is reserved-zero (30_encoding.md R91, R102). -/
def Obligations.EncodeOfDecodeIsTheWord : Prop :=
  ∀ (w : Word32) (i : Instr), decode w = .ok i → i.WellFormed ∧ encode i = w

/-- 30_encoding.md R102 and 60_exceptions.md R304: a fetched word takes ILLEGAL_INSTRUCTION(w, 0), which changes nothing
but the fault record and STATUS, exactly when one of the cases (a) to (e) holds; any other word is executed. -/
def Obligations.IllegalWordsFaultAndOthersExecute : Prop :=
  ∀ (s : State) (w : Word32), EngineDue s → s.pc.toNat < s.params.imemWords → s.word s.pc.toNat = w →
    (IllegalWord w → ∃ t, step s = .next t ∧ FaultEntry s t .illegalInstruction (BitVec.ofNat 64 w.toNat) 0) ∧
    (¬ IllegalWord w → ∃ i, decode w = .ok i ∧ step s = exec i s)

/-- The twelve words of 30_encoding.md R113 decode to the instructions they are listed for. -/
def Obligations.SpecExampleWordsDecode : Prop :=
  decode 0x0448C000 = .ok (.add 1 2 3) ∧ decode 0x7C000000 = .ok .halt ∧ decode 0x80000000 = .ok .crci ∧
  decode 0x88008000 = .ok (.crcu 0 2) ∧ decode 0xE1500001 = .ok (.forge 5 4 true) ∧
  decode 0xCC48C020 = .ok (.gfmod 1 2 3 32) ∧ decode 0xD104C820 = .ok (.gfmulmod 4 1 3 2 32) ∧
  decode 0x444BFFFC = .ok (.lw 1 2 (BitVec.ofInt 18 (-4))) ∧ decode 0x6003FFFF = .ok (.beq 0 0 (BitVec.ofInt 18 (-1))) ∧
  decode 0x28D004C1 = .ok (.movk 3 0x04C1 1) ∧ decode 0x73000014 = .ok (.csrr 12 .padword) ∧
  decode 0x74140001 = .ok (.csrw 5)

/-! ### Steps (45_sequencer.md R269, 60_exceptions.md) -/

/-- A step runs the decoded instruction: the word at pc decodes to i, so the step is exec of i, at this state when
nothing is pending, and at this state less the marker when the engine's turn comes before the pending inputs. -/
def Obligations.StepRunsTheDecodedInstruction : Prop :=
  ∀ (s : State) (i : Instr), s.params.legal → s.status = .running → s.pc.toNat < s.params.imemWords →
    decode (s.word s.pc.toNat) = .ok i →
    (s.inputs = [] → step s = exec i s) ∧
    ∀ rest, s.inputs = .engineTurn :: rest → step s = exec i { s with inputs := rest }

/-- 60_exceptions.md R303: a running engine whose pc is at or beyond IMEM_WORDS takes FETCH_FAULT with EINFO0 = EPC = pc. -/
def Obligations.FetchBeyondImemFaults : Prop :=
  ∀ s : State, EngineDue s → s.params.imemWords ≤ s.pc.toNat →
    ∃ t, step s = .next t ∧ FaultEntry s t .fetchFault (BitVec.ofNat 64 s.pc.toNat) 0

/-- 60_exceptions.md R315 and 45_sequencer.md R269: an engine that is not running keeps all its state. -/
def Obligations.IdleEngineKeepsItsState : Prop :=
  ∀ s : State, s.params.legal → s.inputs = [] → s.status ≠ .running → step s = .next s

/-! ### Integer instructions (45_sequencer.md R240 to R249) -/

/-- 45_sequencer.md R240 to R244: encoding and effect of ADD, SUB, AND, OR and XOR, for every state and operands. -/
def Obligations.IntegerRegisterInstructions : Prop :=
  Encodes 0xFC003FFF 0x04000000 (fun w => .add (bits25to22 w) (bits21to18 w) (bits17to14 w)) ∧
  Encodes 0xFC003FFF 0x08000000 (fun w => .sub (bits25to22 w) (bits21to18 w) (bits17to14 w)) ∧
  Encodes 0xFC003FFF 0x0C000000 (fun w => .and (bits25to22 w) (bits21to18 w) (bits17to14 w)) ∧
  Encodes 0xFC003FFF 0x10000000 (fun w => .or (bits25to22 w) (bits21to18 w) (bits17to14 w)) ∧
  Encodes 0xFC003FFF 0x14000000 (fun w => .xor (bits25to22 w) (bits21to18 w) (bits17to14 w)) ∧
  ∀ (s : State) (rd rs1 rs2 : RegNum),
    (∃ t, exec (.add rd rs1 rs2) s = .next t ∧
      RegResult s t rd (BitVec.ofNat 64 ((s.x rs1).toNat + (s.x rs2).toNat))) ∧
    (∃ t, exec (.sub rd rs1 rs2) s = .next t ∧
      RegResult s t rd (BitVec.ofInt 64 ((s.x rs1).toNat - (s.x rs2).toNat + 2 ^ 64))) ∧
    (∃ t, exec (.and rd rs1 rs2) s = .next t ∧
      RegResult s t rd (BitVec.ofNat 64 ((s.x rs1).toNat &&& (s.x rs2).toNat))) ∧
    (∃ t, exec (.or rd rs1 rs2) s = .next t ∧
      RegResult s t rd (BitVec.ofNat 64 ((s.x rs1).toNat ||| (s.x rs2).toNat))) ∧
    (∃ t, exec (.xor rd rs1 rs2) s = .next t ∧
      RegResult s t rd (BitVec.ofNat 64 ((s.x rs1).toNat ^^^ (s.x rs2).toNat)))

/-- 45_sequencer.md R245 to R247: encoding and effect of ADDI, SLLI and SRLI, for every state and operands. -/
def Obligations.IntegerImmediateInstructions : Prop :=
  Encodes 0xFC000000 0x18000000 (fun w => .addi (bits25to22 w) (bits21to18 w) (bits17to0 w)) ∧
  Encodes 0xFC03FFC0 0x1C000000 (fun w => .slli (bits25to22 w) (bits21to18 w) (w.extractLsb' 0 6)) ∧
  Encodes 0xFC03FFC0 0x20000000 (fun w => .srli (bits25to22 w) (bits21to18 w) (w.extractLsb' 0 6)) ∧
  (∀ w : Word32, w &&& 0xFC000000 = 0x1C000000 ∨ w &&& 0xFC000000 = 0x20000000 → ¬ bitsZero w 6 12 → IllegalWord w) ∧
  ∀ (s : State) (rd rs1 : RegNum),
    (∀ imm : BitVec 18, ∃ t, exec (.addi rd rs1 imm) s = .next t ∧
      RegResult s t rd (BitVec.ofInt 64 ((s.x rs1).toNat + imm.toInt))) ∧
    (∀ shamt : BitVec 6, ∃ t, exec (.slli rd rs1 shamt) s = .next t ∧
      RegResult s t rd (BitVec.ofNat 64 ((s.x rs1).toNat * 2 ^ shamt.toNat))) ∧
    (∀ shamt : BitVec 6, ∃ t, exec (.srli rd rs1 shamt) s = .next t ∧
      RegResult s t rd (BitVec.ofNat 64 ((s.x rs1).toNat / 2 ^ shamt.toNat)))

/-- 45_sequencer.md R248 and R249: encoding and effect of MOVZ and MOVK, lane by lane: lane hw becomes imm16, and the
other lanes become 0 (MOVZ) or keep their bits (MOVK). -/
def Obligations.MoveWideInstructions : Prop :=
  Encodes 0xFC0F0000 0x24000000 (fun w => .movz (bits25to22 w) (w.extractLsb' 0 16) (w.extractLsb' 20 2)) ∧
  Encodes 0xFC0F0000 0x28000000 (fun w => .movk (bits25to22 w) (w.extractLsb' 0 16) (w.extractLsb' 20 2)) ∧
  ∀ (s : State) (rd : RegNum) (imm16 : BitVec 16) (hw : BitVec 2),
    (∃ t v, exec (.movz rd imm16 hw) s = .next t ∧ RegResult s t rd v ∧
      ∀ i < 64, v.getLsbD i = (decide (i / 16 = hw.toNat) && imm16.getLsbD (i % 16))) ∧
    (∃ t v, exec (.movk rd imm16 hw) s = .next t ∧ RegResult s t rd v ∧
      ∀ i < 64, v.getLsbD i = if i / 16 = hw.toNat then imm16.getLsbD (i % 16) else (s.x rd).getLsbD i)

/-! ### Loads and stores (45_sequencer.md R250 to R256, 20_memory.md) -/

/-- 45_sequencer.md R256: the effective address of every load and store wraps modulo 2^64 before the range check. -/
def Obligations.EffectiveAddressWraps : Prop :=
  ∀ (s : State) (rs1 : RegNum) (imm : BitVec 18), s.ea rs1 imm = BitVec.ofInt 64 ((s.x rs1).toNat + imm.toInt)

/-- 45_sequencer.md R250 to R252: encoding and effect of LB, LW and LD: the big-endian value of 1, 4 or 8 bytes,
zero-extended, when the access lies inside DMEM, and ADDR_FAULT(ea, n) with rd unchanged when it does not. -/
def Obligations.LoadInstructions : Prop :=
  Encodes 0xFC000000 0x40000000 (fun w => .lb (bits25to22 w) (bits21to18 w) (bits17to0 w)) ∧
  Encodes 0xFC000000 0x44000000 (fun w => .lw (bits25to22 w) (bits21to18 w) (bits17to0 w)) ∧
  Encodes 0xFC000000 0x48000000 (fun w => .ld (bits25to22 w) (bits21to18 w) (bits17to0 w)) ∧
  ∀ (s : State) (rd rs1 : RegNum) (imm : BitVec 18), let a := (s.ea rs1 imm).toNat
    (if a + 1 ≤ s.params.dmemBytes then
      ∃ t, exec (.lb rd rs1 imm) s = .next t ∧ RegResult s t rd ((s.byte a).setWidth 64)
    else ∃ t, exec (.lb rd rs1 imm) s = .next t ∧ FaultEntry s t .addrFault (s.ea rs1 imm) 1) ∧
    (if a + 4 ≤ s.params.dmemBytes then
      ∃ t, exec (.lw rd rs1 imm) s = .next t ∧
        RegResult s t rd ((s.byte a ++ s.byte (a + 1) ++ s.byte (a + 2) ++ s.byte (a + 3)).setWidth 64)
    else ∃ t, exec (.lw rd rs1 imm) s = .next t ∧ FaultEntry s t .addrFault (s.ea rs1 imm) 4) ∧
    (if a + 8 ≤ s.params.dmemBytes then
      ∃ t, exec (.ld rd rs1 imm) s = .next t ∧
        RegResult s t rd ((s.byte a ++ s.byte (a + 1) ++ s.byte (a + 2) ++ s.byte (a + 3) ++
          s.byte (a + 4) ++ s.byte (a + 5) ++ s.byte (a + 6) ++ s.byte (a + 7)).setWidth 64)
    else ∃ t, exec (.ld rd rs1 imm) s = .next t ∧ FaultEntry s t .addrFault (s.ea rs1 imm) 8)

/-- 45_sequencer.md R253 to R255: encoding and effect of SB, SW and SD: the low 1, 4 or 8 bytes of rs2, most significant
first, at ea and upwards and nowhere else, when the access lies inside DMEM; otherwise ADDR_FAULT(ea, n), no byte written. -/
def Obligations.StoreInstructions : Prop :=
  Encodes 0xFC000000 0x4C000000 (fun w => .sb (bits25to22 w) (bits21to18 w) (bits17to0 w)) ∧
  Encodes 0xFC000000 0x50000000 (fun w => .sw (bits25to22 w) (bits21to18 w) (bits17to0 w)) ∧
  Encodes 0xFC000000 0x54000000 (fun w => .sd (bits25to22 w) (bits21to18 w) (bits17to0 w)) ∧
  ∀ (s : State) (rs2 rs1 : RegNum) (imm : BitVec 18), let a := (s.ea rs1 imm).toNat; let v := s.x rs2
    (if a + 1 ≤ s.params.dmemBytes then
      ∃ t, exec (.sb rs2 rs1 imm) s = .next t ∧ StoreResult s t a [v.extractLsb' 0 8]
    else ∃ t, exec (.sb rs2 rs1 imm) s = .next t ∧ FaultEntry s t .addrFault (s.ea rs1 imm) 1) ∧
    (if a + 4 ≤ s.params.dmemBytes then
      ∃ t, exec (.sw rs2 rs1 imm) s = .next t ∧
        StoreResult s t a [v.extractLsb' 24 8, v.extractLsb' 16 8, v.extractLsb' 8 8, v.extractLsb' 0 8]
    else ∃ t, exec (.sw rs2 rs1 imm) s = .next t ∧ FaultEntry s t .addrFault (s.ea rs1 imm) 4) ∧
    (if a + 8 ≤ s.params.dmemBytes then
      ∃ t, exec (.sd rs2 rs1 imm) s = .next t ∧
        StoreResult s t a [v.extractLsb' 56 8, v.extractLsb' 48 8, v.extractLsb' 40 8, v.extractLsb' 32 8,
          v.extractLsb' 24 8, v.extractLsb' 16 8, v.extractLsb' 8 8, v.extractLsb' 0 8]
    else ∃ t, exec (.sd rs2 rs1 imm) s = .next t ∧ FaultEntry s t .addrFault (s.ea rs1 imm) 8)

/-- 20_memory.md R65: a mixed-width access sees one consistent array of bytes. After SD of v at a, LW at a gives
v[63:32], LW at a + 4 gives v[31:0], LB at a gives v[63:56] and LD at a gives v back. Derived: it composes two steps. -/
def Obligations.MixedWidthAccessesAgree : Prop :=
  ∀ (s t : State) (rs2 rs1 rd : RegNum) (imm : BitVec 18) (a : Nat), a = (s.ea rs1 imm).toNat →
    a + 8 ≤ s.params.dmemBytes → exec (.sd rs2 rs1 imm) s = .next t →
    (∃ u, exec (.lw rd rs1 imm) t = .next u ∧ RegResult t u rd (((s.x rs2).extractLsb' 32 32).setWidth 64)) ∧
    (∃ u, exec (.lb rd rs1 imm) t = .next u ∧ RegResult t u rd (((s.x rs2).extractLsb' 56 8).setWidth 64)) ∧
    (∃ u, exec (.ld rd rs1 imm) t = .next u ∧ RegResult t u rd (s.x rs2)) ∧
    ∀ imm4 : BitVec 18, (s.ea rs1 imm4).toNat = a + 4 →
      ∃ u, exec (.lw rd rs1 imm4) t = .next u ∧ RegResult t u rd (((s.x rs2).extractLsb' 0 32).setWidth 64)

/-! ### Branches (45_sequencer.md R260 to R263) -/

/-- 45_sequencer.md R261 to R263: encoding and effect of BEQ, BNE and BLTU, for every state and operands: only the pc
changes, to the target when the comparison of the whole 64 bits (unsigned for BLTU) holds and by one when it does not. -/
def Obligations.BranchInstructions : Prop :=
  Encodes 0xFC000000 0x60000000 (fun w => .beq (bits25to22 w) (bits21to18 w) (bits17to0 w)) ∧
  Encodes 0xFC000000 0x64000000 (fun w => .bne (bits25to22 w) (bits21to18 w) (bits17to0 w)) ∧
  Encodes 0xFC000000 0x68000000 (fun w => .bltu (bits25to22 w) (bits21to18 w) (bits17to0 w)) ∧
  ∀ (s : State) (rs1 rs2 : RegNum) (off : BitVec 18),
    let target := BitVec.ofInt 32 (s.pc.toNat + off.toInt); let next := BitVec.ofNat 32 (s.pc.toNat + 1)
    (∃ t, exec (.beq rs1 rs2 off) s = .next t ∧
      PcResult s t (if (s.x rs1).toNat = (s.x rs2).toNat then target else next)) ∧
    (∃ t, exec (.bne rs1 rs2 off) s = .next t ∧
      PcResult s t (if (s.x rs1).toNat ≠ (s.x rs2).toNat then target else next)) ∧
    (∃ t, exec (.bltu rs1 rs2 off) s = .next t ∧
      PcResult s t (if (s.x rs1).toNat < (s.x rs2).toNat then target else next))

/-- 45_sequencer.md R260: a taken branch goes to trunc_32(pc + sext_18(off)) unchecked, and a target at or beyond
IMEM_WORDS raises FETCH_FAULT at the next step with EPC = EINFO0 = target. Said of the branch that is always taken. -/
def Obligations.BranchOutOfImemFaultsAtTheNextStep : Prop :=
  ∀ (s : State) (r : RegNum) (off : BitVec 18), EngineDue s → s.pc.toNat < s.params.imemWords →
    decode (s.word s.pc.toNat) = .ok (.beq r r off) →
    let target := BitVec.ofInt 32 (s.pc.toNat + off.toInt)
    ∃ t, step s = .next t ∧ PcResult s t target ∧
      (s.params.imemWords ≤ target.toNat →
        ∃ u, step t = .next u ∧ FaultEntry t u .fetchFault (BitVec.ofNat 64 target.toNat) 0 ∧ u.epc = target)

/-! ### System instructions (45_sequencer.md R265 to R267) -/

/-- 45_sequencer.md R265 with the map of 10_state.md R39: encoding and effect of CSRR for each of the ten assigned
numbers, and ILLEGAL for every other; CAUSE reads the code 60_exceptions.md R302 gives the fault, and EPC its 32 bits,
zero-extended. -/
def Obligations.CsrrReadsEveryAssignedRegister : Prop :=
  (∀ w : Word32, w &&& 0xFC3FF000 = 0x70000000 → (w.extractLsb' 0 12).toNat ∉ assignedCsrs → IllegalWord w) ∧
  Encodes 0xFC3FFFFF 0x70000001 (fun w => .csrr (bits25to22 w) .crc) ∧
  Encodes 0xFC3FFFFF 0x70000002 (fun w => .csrr (bits25to22 w) .cause) ∧
  Encodes 0xFC3FFFFF 0x70000003 (fun w => .csrr (bits25to22 w) .epc) ∧
  Encodes 0xFC3FFFFF 0x70000004 (fun w => .csrr (bits25to22 w) .einfo0) ∧
  Encodes 0xFC3FFFFF 0x70000005 (fun w => .csrr (bits25to22 w) .einfo1) ∧
  Encodes 0xFC3FFFFF 0x70000010 (fun w => .csrr (bits25to22 w) .poly) ∧
  Encodes 0xFC3FFFFF 0x70000011 (fun w => .csrr (bits25to22 w) .polyref) ∧
  Encodes 0xFC3FFFFF 0x70000012 (fun w => .csrr (bits25to22 w) .crcinit) ∧
  Encodes 0xFC3FFFFF 0x70000013 (fun w => .csrr (bits25to22 w) .crcxorout) ∧
  Encodes 0xFC3FFFFF 0x70000014 (fun w => .csrr (bits25to22 w) .padword) ∧
  ∀ (s : State) (rd : RegNum),
    (∃ t, exec (.csrr rd .crc) s = .next t ∧ RegResult s t rd (BitVec.ofNat 64 s.crc.toNat)) ∧
    (∀ p ∈ [(Cause.none, 0), (.fetchFault, 1), (.illegalInstruction, 2), (.addrFault, 3), (.domainError, 4),
      (.verifyFailed, 5)], s.cause = p.1 →
        ∃ t, exec (.csrr rd .cause) s = .next t ∧ RegResult s t rd (BitVec.ofNat 64 p.2)) ∧
    (∃ t, exec (.csrr rd .epc) s = .next t ∧ RegResult s t rd (BitVec.ofNat 64 s.epc.toNat)) ∧
    (∃ t, exec (.csrr rd .einfo0) s = .next t ∧ RegResult s t rd s.einfo0) ∧
    (∃ t, exec (.csrr rd .einfo1) s = .next t ∧ RegResult s t rd s.einfo1) ∧
    (∃ t, exec (.csrr rd .poly) s = .next t ∧ RegResult s t rd 0x104C11DB7) ∧
    (∃ t, exec (.csrr rd .polyref) s = .next t ∧ RegResult s t rd 0xEDB88320) ∧
    (∃ t, exec (.csrr rd .crcinit) s = .next t ∧ RegResult s t rd 0xFFFFFFFF) ∧
    (∃ t, exec (.csrr rd .crcxorout) s = .next t ∧ RegResult s t rd 0xFFFFFFFF) ∧
    (∃ t, exec (.csrr rd .padword) s = .next t ∧ RegResult s t rd 0x08080808)

/-- 45_sequencer.md R266: encoding and effect of CSRW: CRC takes bits 31:0 of the source; any other csr is illegal. -/
def Obligations.CsrwWritesCrcOnly : Prop :=
  Encodes 0xFFC3FFFF 0x74000001 (fun w => .csrw (bits21to18 w)) ∧
  (∀ w : Word32, w &&& 0xFC000000 = 0x74000000 → w.extractLsb' 0 12 ≠ 0x001 → IllegalWord w) ∧
  ∀ (s : State) (rs1 : RegNum),
    ∃ t, exec (.csrw rs1) s = .next t ∧ CrcResult s t (BitVec.ofNat 32 ((s.x rs1).toNat % 2 ^ 32))

/-- 45_sequencer.md R267: the encoding of HALT, and its effect: STATUS becomes HALTED (0x2), pc points past the HALT, and
nothing else changes. -/
def Obligations.HaltEndsTheRun : Prop :=
  (∀ w : Word32, w &&& 0xFC000000 = 0x7C000000 → (decode w = .ok .halt ↔ w = 0x7C000000)) ∧
  (∀ w : Word32, w &&& 0xFC000000 = 0x7C000000 → w ≠ 0x7C000000 → IllegalWord w) ∧
  ∀ s : State, ∃ t, exec .halt s = .next t ∧ t.status = .halted ∧ t.status.value = 0x2 ∧
    t.pc = BitVec.ofNat 32 (s.pc.toNat + 1) ∧ SameRegs s t ∧ t.crc = s.crc ∧ SameRecord s t ∧ SameBytes s t ∧
    SameOutside s t

/-! ### CRC instructions (42_crc32.md) -/

/-- 42_crc32.md R165, R166 and R168: encoding and effect of CRCI, CRCB (bits 7:0 of rs1) and CRCF (CRC unchanged). -/
def Obligations.CrcRegisterInstructions : Prop :=
  Encodes 0xFFFFFFFF 0x80000000 (fun _ => .crci) ∧
  (∀ w : Word32, w &&& 0xFC000000 = 0x80000000 → w ≠ 0x80000000 → IllegalWord w) ∧
  Encodes 0xFFC3FFFF 0x84000000 (fun w => .crcb (bits21to18 w)) ∧
  Encodes 0xFC3FFFFF 0x8C000000 (fun w => .crcf (bits25to22 w)) ∧
  ∀ (s : State) (r : RegNum),
    (∃ t, exec .crci s = .next t ∧ CrcResult s t 0xFFFFFFFF) ∧
    (∃ t, exec (.crcb r) s = .next t ∧ CrcResult s t (crcByte s.crc ((s.x r).extractLsb' 0 8))) ∧
    (∃ t, exec (.crcf r) s = .next t ∧ RegResult s t r (BitVec.ofNat 64 (s.crc ^^^ 0xFFFFFFFF).toNat))

/-- 42_crc32.md R167: encoding and effect of CRCU: CRC advanced over the bytes of the range in ascending order when the
range is empty or inside DMEM, and ADDR_FAULT(a, n) with CRC unchanged when it is not. -/
def Obligations.CrcuScansTheRangeOrFaults : Prop :=
  Encodes 0xFFC03FFF 0x88000000 (fun w => .crcu (bits21to18 w) (bits17to14 w)) ∧
  ∀ (s : State) (rs1 rs2 : RegNum), let a := (s.x rs1).toNat; let n := (s.x rs2).toNat
    if n = 0 ∨ a + n ≤ s.params.dmemBytes then
      ∃ t, exec (.crcu rs1 rs2) s = .next t ∧ CrcResult s t (crcBytes s.crc (s.bytesAt a n))
    else ∃ t, exec (.crcu rs1 rs2) s = .next t ∧ FaultEntry s t .addrFault (s.x rs1) (s.x rs2)

/-- 42_crc32.md R161: a blob may be fed in any number of pieces, in any mixture of CRCB and CRCU: feeding u ++ v is
feeding u and then v, and feeding one byte is one CrcByte. -/
def Obligations.CrcStateDoesNotDependOnTheSplit : Prop :=
  ∀ c : Word32, crcBytes c [] = c ∧ (∀ b s, crcBytes c (b :: s) = crcBytes (crcByte c b) s) ∧
    ∀ s t : List Byte, crcBytes c (s ++ t) = crcBytes (crcBytes c s) t

/-- 20_memory.md R75 and 42_crc32.md R161 on the machine: CRCU over [a, a+n) and then over [a+n, a+n+m) reaches the CRC
state of CRCU over [a, a+n+m). Derived: it composes two steps. -/
def Obligations.ScansOfAdjacentRangesCompose : Prop :=
  ∀ (s t u : State) (r1 r2 r3 r4 r5 : RegNum),
    (s.x r3).toNat = (s.x r1).toNat + (s.x r2).toNat → (s.x r5).toNat = (s.x r2).toNat + (s.x r4).toNat →
    (s.x r1).toNat + (s.x r5).toNat ≤ s.params.dmemBytes →
    exec (.crcu r1 r2) s = .next t → exec (.crcu r3 r4) t = .next u →
    ∃ v, exec (.crcu r1 r5) s = .next v ∧ v.crc = u.crc ∧ v.pc = t.pc

/-- 42_crc32.md R163 (a), the table-driven form: CrcByte(c, b) = (c >> 8) XOR T[(c XOR b) & 0xFF] with T[i] = CrcByte(0, i). -/
def Obligations.CrcByteIsTheTableStep : Prop :=
  ∀ (c : Word32) (b : Byte), crcByte c b = (c >>> 8) ^^^ crcByte 0 ((c.setWidth 8) ^^^ b)

/-- 42_crc32.md R163 (b), the polynomial form: the reflected register holds the remainder modulo G of the state and the
message, both as polynomials. -/
def Obligations.CrcStateIsAPolynomialRemainder : Prop :=
  ∀ (c : Word32) (s : List Byte),
    (rev (crcBytes c s)).toNat =
      prem (clmul (rev c).toNat (2 ^ (8 * s.length)) ^^^ clmul (messagePoly s) (2 ^ 32)) 0x104C11DB7

/-- 42_crc32.md R164: (a) linearity; (b) four bytes from state 0, in polynomial form; (c) the difference two 4-byte
endings make to a checksum does not depend on the prefix or on the state before it. -/
def Obligations.CrcIsLinear : Prop :=
  (∀ (c d : Word32) (s t : List Byte), s.length = t.length →
    crcBytes c s ^^^ crcBytes d t = crcBytes (c ^^^ d) (xorBytes s t)) ∧
  (∀ p : List Byte, p.length = 4 →
    crcBytes 0 p =
      rev (BitVec.ofNat 32 (prem (clmul (brev8w (BitVec.ofNat 32 (beU p))).toNat (2 ^ 32)) 0x104C11DB7))) ∧
  ∀ (c : Word32) (u p : List Byte), p.length = 4 →
    crcFinal (crcBytes c (u ++ p)) ^^^ crcFinal (crcBytes c (u ++ [0, 0, 0, 0])) = crcBytes 0 p

/-! ### Reflection (43_reflection.md) -/

/-- 43_reflection.md R190 and R191: encoding and effect of BREV32 and BREV8, bit by bit. -/
def Obligations.ReflectionInstructions : Prop :=
  Encodes 0xFC03FFFF 0xA0000000 (fun w => .brev32 (bits25to22 w) (bits21to18 w)) ∧
  Encodes 0xFC03FFFF 0xA4000000 (fun w => .brev8 (bits25to22 w) (bits21to18 w)) ∧
  (∀ v : Word32, brev8w v = (brev8 (v.setWidth 64)).extractLsb' 0 32) ∧
  ∀ (s : State) (rd rs1 : RegNum),
    (∃ t v, exec (.brev32 rd rs1) s = .next t ∧ RegResult s t rd v ∧
      ∀ i < 64, v.getLsbD i = (decide (i < 32) && (s.x rs1).getLsbD (31 - i))) ∧
    (∃ t v, exec (.brev8 rd rs1) s = .next t ∧ RegResult s t rd v ∧
      ∀ j < 8, ∀ i < 8, v.getLsbD (8 * j + i) = (s.x rs1).getLsbD (8 * j + 7 - i))

/-- 43_reflection.md R192: (a) both reflections are involutions, (b) BREV32 of a 32-bit value is BREV8 with its bytes
reversed, and the two agree exactly on words whose byte order is palindromic, so they differ at 0x12345678, (c) the
generators are each other's BREV32. -/
def Obligations.ReflectionLaws : Prop :=
  (∀ v : Word, brev32 (brev32 v) = (v.extractLsb' 0 32).setWidth 64) ∧ (∀ v : Word, brev8 (brev8 v) = v) ∧
  (∀ v : Word32, brev32 (v.setWidth 64) = (bswap32 (brev8w v)).setWidth 64) ∧
  (∀ v : Word32, brev32 (v.setWidth 64) = brev8 (v.setWidth 64) ↔ bswap32 v = v) ∧
  brev32 0x12345678 ≠ brev8 0x12345678 ∧
  rev (0x04C11DB7 : Word32) = 0xEDB88320 ∧ rev (0xEDB88320 : Word32) = 0x04C11DB7

/-! ### GF(2) arithmetic (41_gf2_arith.md) -/

/-- 41_gf2_arith.md R120: clmul is the product of polynomials over GF(2), coefficient by coefficient; it is commutative,
associative and distributes over XOR, has 0 and 1, and stays below 2^127 on 64-bit operands. -/
def Obligations.CarrylessProductLaws : Prop :=
  (∀ a b k : Nat, (clmul a b).testBit k = productBit a b k) ∧
  (∀ a b : Nat, clmul a b = clmul b a) ∧ (∀ a b c : Nat, clmul (clmul a b) c = clmul a (clmul b c)) ∧
  (∀ a b c : Nat, clmul a (b ^^^ c) = clmul a b ^^^ clmul a c) ∧
  (∀ a : Nat, clmul a 0 = 0) ∧ (∀ a : Nat, clmul a 1 = a) ∧
  (∀ a b : Nat, a < 2 ^ 64 → b < 2 ^ 64 → clmul a b < 2 ^ 127) ∧
  (∀ a b : Nat, a ≠ 0 → b ≠ 0 → deg (clmul a b) = deg a + deg b)

/-- 41_gf2_arith.md R130 and R131: encoding and effect of CLMUL and CLMULH, the coefficients 63:0 and 127:64 of the
product of the operands as polynomials. -/
def Obligations.CarrylessMultiplyInstructions : Prop :=
  Encodes 0xFC003FFF 0xC0000000 (fun w => .clmul (bits25to22 w) (bits21to18 w) (bits17to14 w)) ∧
  Encodes 0xFC003FFF 0xC4000000 (fun w => .clmulh (bits25to22 w) (bits21to18 w) (bits17to14 w)) ∧
  ∀ (s : State) (rd rs1 rs2 : RegNum), let a := (s.x rs1).toNat; let b := (s.x rs2).toNat
    (∃ t v, exec (.clmul rd rs1 rs2) s = .next t ∧ RegResult s t rd v ∧
      ∀ k < 64, v.getLsbD k = productBit a b k) ∧
    (∃ t v, exec (.clmulh rd rs1 rs2) s = .next t ∧ RegResult s t rd v ∧
      ∀ k < 64, v.getLsbD k = productBit a b (k + 64))

/-- 41_gf2_arith.md R121, R122 and R126 (a): division. Divisor 0 gives quotient 0 and remainder a; always
a = q * b XOR r; for b nonzero the remainder is of smaller degree than b, and these two determine q and r. -/
def Obligations.DivisionWithRemainder : Prop :=
  (∀ a : Nat, pdiv a 0 = 0 ∧ prem a 0 = a) ∧
  (∀ a b : Nat, clmul (pdiv a b) b ^^^ prem a b = a) ∧
  (∀ a b : Nat, b ≠ 0 → deg (prem a b) < deg b) ∧
  (∀ a b q r : Nat, b ≠ 0 → clmul q b ^^^ r = a → deg r < deg b → q = pdiv a b ∧ r = prem a b)

/-- 41_gf2_arith.md R126 (b) and 90_conflicts.md C3: with the mask the identity holds exactly when the mask cuts nothing
off the remainder, and so for every dividend when b is nonzero and n >= deg(b). -/
def Obligations.MaskedDivisionIdentityCondition : Prop :=
  (∀ a b n : Nat, clmul (pdiv a b) b ^^^ pmod a b n = a ↔ bitLength (prem a b) ≤ n) ∧
  (∀ a b n : Nat, b ≠ 0 → deg b ≤ n → clmul (pdiv a b) b ^^^ pmod a b n = a)

/-- 41_gf2_arith.md R132 to R134: encoding and effect of GFDIV, GFMOD and GFMULMOD, whose quotient and remainder are
characterised by `DivisionWithRemainder` and whose product by `CarrylessProductLaws`; none of them faults, n > 64 is
illegal, and GFMULMOD reduces the full product. -/
def Obligations.DivideAndReduceInstructions : Prop :=
  Encodes 0xFC003FFF 0xC8000000 (fun w => .gfdiv (bits25to22 w) (bits21to18 w) (bits17to14 w)) ∧
  (∀ w : Word32, w &&& 0xFC003C00 = 0xCC000000 → (w.extractLsb' 0 10).toNat ≤ 64 →
    decode w = .ok (.gfmod (bits25to22 w) (bits21to18 w) (bits17to14 w) (w.extractLsb' 0 10))) ∧
  (∀ w : Word32, w &&& 0xFC000000 = 0xD0000000 → (w.extractLsb' 0 10).toNat ≤ 64 →
    decode w = .ok (.gfmulmod (bits25to22 w) (bits21to18 w) (bits17to14 w) (bits13to10 w) (w.extractLsb' 0 10))) ∧
  (∀ w : Word32, w &&& 0xFC000000 = 0xCC000000 ∨ w &&& 0xFC000000 = 0xD0000000 → 64 < (w.extractLsb' 0 10).toNat →
    IllegalWord w) ∧
  ∀ (s : State) (rd rs1 rs2 rs3 : RegNum) (n : BitVec 10), n.toNat ≤ 64 →
    let a := (s.x rs1).toNat; let b := (s.x rs2).toNat; let m := (s.x rs3).toNat
    (∃ t v, exec (.gfdiv rd rs1 rs2) s = .next t ∧ RegResult s t rd v ∧ v.toNat = pdiv a b) ∧
    (∃ t v, exec (.gfmod rd rs1 rs2 n) s = .next t ∧ RegResult s t rd v ∧ v.toNat = prem a b % 2 ^ n.toNat) ∧
    (∃ t v, exec (.gfmulmod rd rs1 rs2 rs3 n) s = .next t ∧ RegResult s t rd v ∧
      v.toNat = prem (clmul a b) m % 2 ^ n.toNat)

/-- 41_gf2_arith.md R123 and R126 (c): a value pinv returns is an inverse of a modulo m, and below 2^deg(m) when
deg(m) >= 1. -/
def Obligations.ReturnedInverseIsAnInverse : Prop :=
  (∀ a m v : Nat, pinv a m = some v → prem (clmul a v) m = prem 1 m) ∧
  (∀ a m v : Nat, pinv a m = some v → 1 ≤ deg m → prem (clmul a v) m = 1 ∧ deg v < deg m)

/-- 41_gf2_arith.md R123: pinv fails exactly when a = 0 or no inverse exists, that is when no u and w give
a*u XOR m*w = 1; the outcomes at m = 0 and m = 1 are the ones listed. -/
def Obligations.InverseIsFoundExactlyWhenThereIsOne : Prop :=
  (∀ a m : Nat, pinv a m = none ↔ a = 0 ∨ ¬ ∃ u w : Nat, clmul a u ^^^ clmul m w = 1) ∧
  (∀ a : Nat, pinv a 0 = if a = 1 then some 1 else none) ∧
  pinv 1 1 = some 1 ∧ (∀ a : Nat, 1 ≤ deg a → pinv a 1 = some 0)

/-- 41_gf2_arith.md R124, with the laws R126 (d) and (e): pdivx32 fails exactly for even moduli, and otherwise returns the
k' with k' * x^32 = k modulo poly, fully reduced; no other fully reduced value has that property; for G it never fails
and stays below 2^32. Derived. -/
def Obligations.DivisionByX32Law : Prop :=
  (∀ k poly : Nat, pdivx32 k poly = none ↔ poly % 2 = 0) ∧
  (∀ k poly v : Nat, pdivx32 k poly = some v → prem (clmul v (2 ^ 32)) poly = prem k poly ∧ deg v < deg poly) ∧
  (∀ k poly v : Nat, poly % 2 = 1 → prem (clmul v (2 ^ 32)) poly = prem k poly → deg v < deg poly →
    pdivx32 k poly = some v) ∧
  (∀ k : Nat, ∃ v, pdivx32 k 0x104C11DB7 = some v ∧ v < 2 ^ 32) ∧
  pinv (2 ^ 32) 0x104C11DB7 = some 0xCBF1ACDA

/-- 41_gf2_arith.md R135: encoding and effect of GFINV: the inverse where one exists, and otherwise DOMAIN_ERROR(a, m)
with rd unchanged. When an inverse exists is said by `InverseIsFoundExactlyWhenThereIsOne`. -/
def Obligations.ModularInverseInstruction : Prop :=
  Encodes 0xFC003FFF 0xD4000000 (fun w => .gfinv (bits25to22 w) (bits21to18 w) (bits17to14 w)) ∧
  ∀ (s : State) (rd rs1 rs2 : RegNum), let a := (s.x rs1).toNat; let m := (s.x rs2).toNat
    (∀ v, pinv a m = some v → ∃ t w, exec (.gfinv rd rs1 rs2) s = .next t ∧ RegResult s t rd w ∧ w.toNat = v) ∧
    (pinv a m = none → ∃ t, exec (.gfinv rd rs1 rs2) s = .next t ∧ FaultEntry s t .domainError (s.x rs1) (s.x rs2))

/-- 41_gf2_arith.md R136 and 60_exceptions.md R306: encoding and effect of GFDIVX32: for an odd poly the v below poly's
degree with v * x^32 = k modulo poly, and for an even one DOMAIN_ERROR(0x1_0000_0000, poly) with rd unchanged. -/
def Obligations.DivideByX32Instruction : Prop :=
  Encodes 0xFC003FFF 0xD8000000 (fun w => .gfdivx32 (bits25to22 w) (bits21to18 w) (bits17to14 w)) ∧
  ∀ (s : State) (rd rs1 rs2 : RegNum), let k := (s.x rs1).toNat; let poly := (s.x rs2).toNat
    if poly % 2 = 1 then
      ∃ t w, exec (.gfdivx32 rd rs1 rs2) s = .next t ∧ RegResult s t rd w ∧ pdivx32 k poly = some w.toNat ∧
        prem (clmul w.toNat (2 ^ 32)) poly = prem k poly ∧ deg w.toNat < deg poly
    else
      ∃ t, exec (.gfdivx32 rd rs1 rs2) s = .next t ∧ FaultEntry s t .domainError 0x100000000 (s.x rs2)

/-- 41_gf2_arith.md R125: the widths a 64-bit datapath needs. Derived. -/
def Obligations.ResultsFitTheirWidths : Prop :=
  ∀ a b : Nat, a < 2 ^ 64 → b < 2 ^ 64 →
    pdiv a b < 2 ^ 64 ∧ prem a b < 2 ^ 64 ∧
    (∀ v, pinv a b = some v → (1 ≤ deg b → v < 2 ^ 63) ∧ (deg b < 1 → v = 0 ∨ v = 1)) ∧
    (∀ v, pdivx32 a b = some v → b ≠ 0 → v < 2 ^ 63)

/-! ### Forge (44_forge.md) -/

/-- 44_forge.md R212: for every state S, target T and padding flag p, ForgeCore returns actual = T, so FORGE never raises
VERIFY_FAILED. -/
def Obligations.ForgedPatchAlwaysVerifies : Prop :=
  (∀ (S T : Word32) (p : Bool), (forgeCore S T p).2 = T) ∧
  ∀ (s : State) (rd rs1 : RegNum) (p : Bool), ∃ t, exec (.forge rd rs1 p) s = .next t ∧ t.status = s.status ∧ SameRecord s t

/-- 44_forge.md R211 and R212: encoding and effect of FORGE, which completes for every state: rd takes four bytes which,
after the optional marker, bring the checksum to T; CRC becomes T XOR 0xFFFFFFFF; VERIFY_FAILED is never raised. -/
def Obligations.ForgeInstructionReturnsAVerifiedPatch : Prop :=
  Encodes 0xFC03FFFE 0xE0000000 (fun w => .forge (bits25to22 w) (bits21to18 w) (w.getLsbD 0)) ∧
  ∀ (s : State) (rd rs1 : RegNum) (p : Bool), let T : Word32 := (s.x rs1).extractLsb' 0 32
    ∃ t v, exec (.forge rd rs1 p) s = .next t ∧ WroteReg s t rd v ∧ v.toNat < 2 ^ 32 ∧
      crcBytes s.crc ((if p then [0x08, 0x08, 0x08, 0x08] else []) ++ beBytes 4 v.toNat) ^^^ 0xFFFFFFFF = T ∧
      v.toNat = beU (forgeCore s.crc T p).1 ∧ (forgeCore s.crc T p).2 = T ∧
      t.crc = T ^^^ 0xFFFFFFFF ∧ t.pc = s.pc + 1 ∧ t.status = s.status ∧ SameRecord s t ∧ SameBytes s t ∧ SameOutside s t

/-- 44_forge.md R213: four bytes that bring the checksum to T exist and are unique, so they are the patch, and flipping
any bit of it changes the checksum. Derived. -/
def Obligations.PatchIsTheOnlyFourBytes : Prop :=
  ∀ (S T : Word32) (p : Bool) (q : List Byte), q.length = 4 →
    (crcFinal (crcBytes S (padBytes p ++ q)) = T ↔ q = (forgeCore S T p).1)

/-! ### The machine as a whole -/

/-- Every step keeps both memories in canonical form and inside their sizes, whoever's turn it is (20_memory.md R60,
R61, R64, R68). The canonical form is the model's own (log 5). Derived. -/
def Obligations.StepKeepsMemoriesOk : Prop :=
  ∀ s t : State, s.memoriesOk → step s = .next t → t.memoriesOk

/-- Every step keeps STATUS and the fault record in agreement (10_state.md R35 to R37, 60_exceptions.md R301, R322). Derived. -/
def Obligations.StepKeepsRecordOk : Prop :=
  ∀ s t : State, s.recordOk → step s = .next t → t.recordOk

/-- 70_reset_and_hazards.md R340: what reset leaves, and that the state after it meets both invariants and has legal
parameters (their defaults, 00_scope.md R9). That nothing is pending is the model's choice (log 6). Derived. -/
def Obligations.ResetStateIsWellFormed : Prop :=
  ResetRegs State.reset ∧ State.reset.memoriesOk ∧ State.reset.recordOk ∧ State.reset.params.legal ∧
  State.reset.params = ⟨4096, 65536⟩ ∧ State.reset.imem = [] ∧ State.reset.dmem = [] ∧ State.reset.inputs = []

/-- Every instruction answers a next state in every state: no fault or refusal of the model stops one, since taking one
of the five faults is a next state (60_exceptions.md R301, 45_sequencer.md R269). Derived. -/
def Obligations.EveryInstructionAnswersANextState : Prop :=
  ∀ (i : Instr) (s : State), ∃ t, exec i s = .next t

/-- 60_exceptions.md R301 and R309, 45_sequencer.md R269: if an instruction of a running engine ends FAULTED, then it did
nothing but fault entry at its own pc, with a cause other than NONE. Derived. -/
def Obligations.FaultsArePrecise : Prop :=
  ∀ (i : Instr) (s t : State), s.status = .running → exec i s = .next t → t.status = .faulted →
    FaultEntry s t t.cause t.einfo0 t.einfo1 ∧ t.cause ≠ .none

/-- 60_exceptions.md R326: the engine's step ends a run normally exactly when it executes HALT, and it never leaves the
engine idle. Derived. -/
def Obligations.OnlyHaltEndsARunNormally : Prop :=
  ∀ s t : State, EngineDue s → step s = .next t →
    (t.status = .halted ↔ s.pc.toNat < s.params.imemWords ∧ decode (s.word s.pc.toNat) = .ok .halt) ∧ t.status ≠ .idle

/-- 10_state.md R34: of the 36 instructions only CRCI, CRCB, CRCU, FORGE and CSRW change CRC. Derived. -/
def Obligations.OnlyCrcInstructionsChangeCrc : Prop :=
  ∀ (i : Instr) (s t : State), exec i s = .next t → t.crc ≠ s.crc →
    i = .crci ∨ (∃ r, i = .crcb r) ∨ (∃ a n, i = .crcu a n) ∨ (∃ rd rs1 p, i = .forge rd rs1 p) ∨ ∃ r, i = .csrw r

/-- 20_memory.md R60, R61: of the 36 instructions only SB, SW and SD change a byte of DMEM, and none changes IMEM, the
parameters, or what is outside the engine. Derived. -/
def Obligations.OnlyStoresChangeDmemAndNothingChangesImem : Prop :=
  ∀ (i : Instr) (s t : State), exec i s = .next t →
    SameOutside s t ∧ (¬ SameBytes s t →
      (∃ a b c, i = .sb a b c) ∨ (∃ a b c, i = .sw a b c) ∨ ∃ a b c, i = .sd a b c)

/-- 10_state.md R31, R42 and 45_sequencer.md R260, R264: an instruction writes at most one general register, and leaves
pc at the next index, at its own target if it is a branch, or where it was if it takes a fault. Derived. -/
def Obligations.AtMostOneRegisterAndThreePlacesForPc : Prop :=
  ∀ (i : Instr) (s t : State), exec i s = .next t →
    (∃ rd v, WroteReg s t rd v) ∧
    (t.pc = s.pc + 1 ∨
      (∃ rs1 rs2 off, (i = .beq rs1 rs2 off ∨ i = .bne rs1 rs2 off ∨ i = .bltu rs1 rs2 off) ∧
        t.pc = s.target off ∧ s.target off = BitVec.ofInt 32 (s.pc.toNat + off.toInt)) ∨
      FaultEntry s t t.cause t.einfo0 t.einfo1)

/-- 45_sequencer.md R265: reading CAUSE, EINFO0 or EINFO1 during a run always gives 0. Derived; the premise is the
invariant of `StepKeepsRecordOk`. -/
def Obligations.CauseReadsZeroDuringARun : Prop :=
  ∀ (s : State) (rd : RegNum), s.recordOk → s.status = .running →
    (∃ t, exec (.csrr rd .cause) s = .next t ∧ RegResult s t rd 0) ∧
    (∃ t, exec (.csrr rd .einfo0) s = .next t ∧ RegResult s t rd 0) ∧
    (∃ t, exec (.csrr rd .einfo1) s = .next t ∧ RegResult s t rd 0)

/-! ### The host (60_exceptions.md R320 to R327) and resets (70_reset_and_hazards.md) -/

/-- 60_exceptions.md R322: CTRL.START makes a stopped engine run, clears CAUSE, EINFO0 and EINFO1, and keeps everything
else; in a running engine it has no effect; a write with bits 1:0 = 00 has none. -/
def Obligations.StartRunsAStoppedEngine : Prop :=
  ∀ (s : State) (v : Word) (rest : List Input), WriteDue s 64 0 v rest → v.getLsbD 1 = false →
    ∃ t, step s = .next t ∧ t.inputs = rest ∧
      (v.getLsbD 0 = true → s.status ≠ .running →
        t.status = .running ∧ t.cause = .none ∧ t.einfo0 = 0 ∧ t.einfo1 = 0 ∧ t.pc = s.pc ∧ SameRegs s t ∧
        t.crc = s.crc ∧ t.epc = s.epc ∧ SameMemories s t ∧ t.params = s.params ∧ t.replies = s.replies) ∧
      (v.getLsbD 0 = false ∨ s.status = .running → t = { s with inputs := rest })

/-- 60_exceptions.md R324: while the engine runs, a read of STATUS returns STATUS and every other read 0; a write to CTRL
with bit 1 set resets the engine and every other write is ignored. Said of accesses of a row's own width, and of any width
at an offset without a row; that the latter takes in offsets inside a row is the model's reading (log 9). Derived. -/
def Obligations.HostAccessWhileTheEngineRuns : Prop :=
  ∀ (s : State) (bits offset : Nat) (v : Word) (rest : List Input), s.status = .running →
    HostRow s.params offset bits ∨ OtherOffset s.params offset →
    (ReadDue s bits offset rest → ∃ t, step s = .next t ∧ ReadResult s t rest (if offset = 0x008 then 1 else 0)) ∧
    (WriteDue s bits offset v rest →
      (offset = 0 ∧ v.getLsbD 1 = true → ∃ t, step s = .next t ∧ ResetRegs t ∧ SameMemories s t) ∧
      (offset ≠ 0 ∨ v.getLsbD 1 = false → step s = .next { s with inputs := rest }))

/-- 60_exceptions.md R321 and R323, reads of a stopped engine: every row of the register map, STATUS with the values of
10_state.md R35 and CAUSE with the codes of 60_exceptions.md R302, and 0 at every offset that is none of the rows. That
those offsets take in the ones inside a row, and accesses of any width, is the model's reading (log 9). Derived. -/
def Obligations.HostReadsOfAStoppedEngine : Prop :=
  ∀ (s : State) (rest : List Input), s.status ≠ .running →
    let reads := fun (bits offset : Nat) (v : Word) =>
      ReadDue s bits offset rest → ∃ t, step s = .next t ∧ ReadResult s t rest v
    reads 64 0x000 0 ∧
    (∀ p ∈ [(RunStatus.idle, 0x0), (.halted, 0x2), (.faulted, 0x4)], s.status = p.1 →
      reads 64 0x008 (BitVec.ofNat 64 p.2)) ∧
    reads 64 0x010 (s.pc.setWidth 64) ∧
    (∀ p ∈ [(Cause.none, 0), (.fetchFault, 1), (.illegalInstruction, 2), (.addrFault, 3), (.domainError, 4),
      (.verifyFailed, 5)], s.cause = p.1 → reads 64 0x018 (BitVec.ofNat 64 p.2)) ∧
    reads 64 0x020 (s.epc.setWidth 64) ∧
    reads 64 0x028 s.einfo0 ∧ reads 64 0x030 s.einfo1 ∧ reads 64 0x038 (s.crc.setWidth 64) ∧
    (∀ i < 16, reads 64 (0x100 + 8 * i) (s.x (BitVec.ofNat 4 i))) ∧
    (∀ i < s.params.imemWords, reads 32 (0x10000 + 4 * i) ((s.word i).setWidth 64)) ∧
    (∀ i < s.params.dmemBytes, reads 8 (0x100000 + i) ((s.byte i).setWidth 64)) ∧
    (∀ bits offset, OtherOffset s.params offset → reads bits offset 0)

/-- 60_exceptions.md R321 and R323, writes to a stopped engine: each writable row takes the value, one thing at a time,
and the read-only rows and every offset that is none of the rows ignore it. That those offsets take in the ones inside a
row, and accesses of any width, is the model's reading (log 9), and so is that an IMEM word or a DMEM byte takes the low
32 or 8 bits of the value (log 21). CTRL is in `StartRunsAStoppedEngine` and `SoftResetKeepsTheMemories`. Derived. -/
def Obligations.HostWritesToAStoppedEngine : Prop :=
  ∀ (s : State) (v : Word) (rest : List Input), s.status ≠ .running →
    let writes := fun (bits offset : Nat) (post : State → Prop) =>
      WriteDue s bits offset v rest → ∃ t, step s = .next t ∧ t.inputs = rest ∧ t.status = s.status ∧ SameRecord s t ∧
        t.params = s.params ∧ t.replies = s.replies ∧ post t
    writes 64 0x010 (fun t => t.pc = v.setWidth 32 ∧ SameRegs s t ∧ t.crc = s.crc ∧ SameMemories s t) ∧
    writes 64 0x038 (fun t => t.crc = v.setWidth 32 ∧ SameRegs s t ∧ t.pc = s.pc ∧ SameMemories s t) ∧
    (∀ i < 16, writes 64 (0x100 + 8 * i) (fun t =>
      WroteReg s t (BitVec.ofNat 4 i) v ∧ t.pc = s.pc ∧ t.crc = s.crc ∧ SameMemories s t)) ∧
    (∀ i < s.params.imemWords, writes 32 (0x10000 + 4 * i) (fun t =>
      (∀ k, t.word k = if k = i then v.setWidth 32 else s.word k) ∧ SameBytes s t ∧ SameRegs s t ∧ t.pc = s.pc ∧
        t.crc = s.crc)) ∧
    (∀ i < s.params.dmemBytes, writes 8 (0x100000 + i) (fun t =>
      (∀ k, t.byte k = if k = i then v.setWidth 8 else s.byte k) ∧ (∀ k, t.word k = s.word k) ∧ SameRegs s t ∧
        t.pc = s.pc ∧ t.crc = s.crc)) ∧
    (∀ offset ∈ [0x008, 0x018, 0x020, 0x028, 0x030], writes 64 offset (fun t => t = { s with inputs := rest })) ∧
    (∀ bits offset, OtherOffset s.params offset → writes bits offset (fun t => t = { s with inputs := rest }))

/-- 60_exceptions.md R321 and 93_implementation_defined.md I7: a host access of a width its row does not have is outside
the spec, and the model refuses it by name (log 10): other than 64 bits at the eight registers and at the GPRs, other than
32 at an IMEM word, other than 8 at a DMEM byte. Derived. -/
def Obligations.HostAccessOfAnotherWidthIsRefused : Prop :=
  ∀ (s : State) (bits : Nat) (v : Word) (rest : List Input),
    let refuses := fun offset : Nat =>
      (ReadDue s bits offset rest → step s = .refused .hostAccessWidth) ∧
      (WriteDue s bits offset v rest → step s = .refused .hostAccessWidth)
    (bits ≠ 64 → ∀ offset ∈ [0x000, 0x008, 0x010, 0x018, 0x020, 0x028, 0x030, 0x038], refuses offset) ∧
    (bits ≠ 64 → ∀ i < 16, refuses (0x100 + 8 * i)) ∧
    (bits ≠ 32 → ∀ i < s.params.imemWords, refuses (0x10000 + 4 * i)) ∧
    (bits ≠ 8 → ∀ i < s.params.dmemBytes, refuses (0x100000 + i))

/-- 60_exceptions.md R325 and 70_reset_and_hazards.md R342: a write to CTRL with bit 1 set, whatever bit 0 and STATUS
are, sets every register to its reset value and keeps IMEM and DMEM; RESET wins over START. -/
def Obligations.SoftResetKeepsTheMemories : Prop :=
  ∀ (s : State) (v : Word) (rest : List Input), WriteDue s 64 0 v rest → v.getLsbD 1 = true →
    ∃ t, step s = .next t ∧ ResetRegs t ∧ SameMemories s t ∧ t.params = s.params ∧ t.inputs = rest ∧
      t.replies = s.replies

/-- 70_reset_and_hazards.md R343 and R341: power-on reset sets every register to its reset value and forgets what was
written to both memories: a cell reads as the new power-on's draw, a free value. That the draw is numbered is the
model's choice (logs 3 and 4). Derived. -/
def Obligations.PowerOnResetForgetsTheMemories : Prop :=
  ∀ (s : State) (rest : List Input), s.params.legal → s.inputs = .powerOn :: rest →
    ∃ t, step s = .next t ∧ ResetRegs t ∧ t.params = s.params ∧ t.inputs = rest ∧
      (∀ a, t.byte a = Config.dmemDraw (s.powerOns + 1) a) ∧ ∀ i, t.word i = Config.imemDraw (s.powerOns + 1) i

/-- 20_memory.md R70 (d) and R73, 70_reset_and_hazards.md R344: a word the host writes to IMEM at pc before START is the
word the run's first step executes. Derived: it composes three steps. -/
def Obligations.HostLoadedWordIsExecutedAfterStart : Prop :=
  ∀ (s : State) (w v : Word) (i : Instr), s.params.legal → s.status ≠ .running → s.pc.toNat < s.params.imemWords →
    s.inputs = [.write 32 (0x10000 + 4 * s.pc.toNat) w, .write 64 0 v] → v.getLsbD 0 = true → v.getLsbD 1 = false →
    decode (w.setWidth 32) = .ok i →
    ∃ t u, step s = .next t ∧ step t = .next u ∧ EngineDue u ∧ step u = exec i u ∧ u.pc = s.pc ∧ SameRegs s u ∧
      u.crc = s.crc ∧ SameBytes s u
end

