-- ==== Sys2Proof/Laws/Encoding.lean ====
section
/-! SUPPORT. The fields of a word built in a format are what it was built from (30_encoding.md R92 to R97). -/

namespace Sys2Proof

/-! ### Format R -/

@[simp] theorem opcodeOf_formatR (op : BitVec 6) (rd rs1 rs2 rs3 : RegNum) (n : BitVec 10) : opcodeOf (formatR op rd rs1 rs2 rs3 n) = op := by
  unfold opcodeOf formatR
  refine BitVec.eq_of_getLsbD_eq fun i hi => ?_
  simp only [BitVec.getLsbD_extractLsb', BitVec.getLsbD_append, hi, decide_true, Bool.true_and]
  split_ifs <;> first | omega | (congr 1; omega)

@[simp] theorem fieldA_formatR (op : BitVec 6) (rd rs1 rs2 rs3 : RegNum) (n : BitVec 10) : fieldA (formatR op rd rs1 rs2 rs3 n) = rd := by
  unfold fieldA formatR
  refine BitVec.eq_of_getLsbD_eq fun i hi => ?_
  simp only [BitVec.getLsbD_extractLsb', BitVec.getLsbD_append, hi, decide_true, Bool.true_and]
  split_ifs <;> first | omega | (congr 1; omega)

@[simp] theorem fieldB_formatR (op : BitVec 6) (rd rs1 rs2 rs3 : RegNum) (n : BitVec 10) : fieldB (formatR op rd rs1 rs2 rs3 n) = rs1 := by
  unfold fieldB formatR
  refine BitVec.eq_of_getLsbD_eq fun i hi => ?_
  simp only [BitVec.getLsbD_extractLsb', BitVec.getLsbD_append, hi, decide_true, Bool.true_and]
  split_ifs <;> first | omega | (congr 1; omega)

@[simp] theorem fieldC_formatR (op : BitVec 6) (rd rs1 rs2 rs3 : RegNum) (n : BitVec 10) : fieldC (formatR op rd rs1 rs2 rs3 n) = rs2 := by
  unfold fieldC formatR
  refine BitVec.eq_of_getLsbD_eq fun i hi => ?_
  simp only [BitVec.getLsbD_extractLsb', BitVec.getLsbD_append, hi, decide_true, Bool.true_and]
  split_ifs <;> first | omega | (congr 1; omega)

@[simp] theorem fieldD_formatR (op : BitVec 6) (rd rs1 rs2 rs3 : RegNum) (n : BitVec 10) : fieldD (formatR op rd rs1 rs2 rs3 n) = rs3 := by
  unfold fieldD formatR
  refine BitVec.eq_of_getLsbD_eq fun i hi => ?_
  simp only [BitVec.getLsbD_extractLsb', BitVec.getLsbD_append, hi, decide_true, Bool.true_and]
  split_ifs <;> first | omega | (congr 1; omega)

@[simp] theorem imm10Of_formatR (op : BitVec 6) (rd rs1 rs2 rs3 : RegNum) (n : BitVec 10) : imm10Of (formatR op rd rs1 rs2 rs3 n) = n := by
  unfold imm10Of formatR
  refine BitVec.eq_of_getLsbD_eq fun i hi => ?_
  simp only [BitVec.getLsbD_extractLsb', BitVec.getLsbD_append, hi, decide_true, Bool.true_and]
  split_ifs <;> first | omega | (congr 1; omega)

@[simp] theorem padFlagOf_formatR (op : BitVec 6) (rd rs1 rs2 rs3 : RegNum) (p : Bool) :
    padFlagOf (formatR op rd rs1 rs2 rs3 (0#9 ++ BitVec.ofBool p)) = p := by
  simp only [padFlagOf, formatR, BitVec.getLsbD_append]
  cases p <;> rfl

/-! ### Formats I, S and B -/

@[simp] theorem opcodeOf_formatI (op : BitVec 6) (a b : RegNum) (imm : BitVec 18) : opcodeOf (formatI op a b imm) = op := by
  unfold opcodeOf formatI
  refine BitVec.eq_of_getLsbD_eq fun i hi => ?_
  simp only [BitVec.getLsbD_extractLsb', BitVec.getLsbD_append, hi, decide_true, Bool.true_and]
  split_ifs <;> first | omega | (congr 1; omega)

@[simp] theorem fieldA_formatI (op : BitVec 6) (a b : RegNum) (imm : BitVec 18) : fieldA (formatI op a b imm) = a := by
  unfold fieldA formatI
  refine BitVec.eq_of_getLsbD_eq fun i hi => ?_
  simp only [BitVec.getLsbD_extractLsb', BitVec.getLsbD_append, hi, decide_true, Bool.true_and]
  split_ifs <;> first | omega | (congr 1; omega)

@[simp] theorem fieldB_formatI (op : BitVec 6) (a b : RegNum) (imm : BitVec 18) : fieldB (formatI op a b imm) = b := by
  unfold fieldB formatI
  refine BitVec.eq_of_getLsbD_eq fun i hi => ?_
  simp only [BitVec.getLsbD_extractLsb', BitVec.getLsbD_append, hi, decide_true, Bool.true_and]
  split_ifs <;> first | omega | (congr 1; omega)

@[simp] theorem imm18Of_formatI (op : BitVec 6) (a b : RegNum) (imm : BitVec 18) : imm18Of (formatI op a b imm) = imm := by
  unfold imm18Of formatI
  refine BitVec.eq_of_getLsbD_eq fun i hi => ?_
  simp only [BitVec.getLsbD_extractLsb', BitVec.getLsbD_append, hi, decide_true, Bool.true_and]
  split_ifs <;> first | omega | (congr 1; omega)

@[simp] theorem shamtOf_formatI (op : BitVec 6) (a b : RegNum) (sh : BitVec 6) : shamtOf (formatI op a b (0#12 ++ sh)) = sh := by
  unfold shamtOf formatI
  refine BitVec.eq_of_getLsbD_eq fun i hi => ?_
  simp only [BitVec.getLsbD_extractLsb', BitVec.getLsbD_append, hi, decide_true, Bool.true_and]
  split_ifs <;> first | omega | (congr 1; omega)

@[simp] theorem csrFieldOf_formatI (op : BitVec 6) (a b : RegNum) (n : BitVec 12) : csrFieldOf (formatI op a b (0#6 ++ n)) = n := by
  unfold csrFieldOf formatI
  refine BitVec.eq_of_getLsbD_eq fun i hi => ?_
  simp only [BitVec.getLsbD_extractLsb', BitVec.getLsbD_append, hi, decide_true, Bool.true_and]
  split_ifs <;> first | omega | (congr 1; omega)

/-! ### Format M -/

@[simp] theorem opcodeOf_formatM (op : BitVec 6) (rd : RegNum) (hw : BitVec 2) (imm : BitVec 16) : opcodeOf (formatM op rd hw imm) = op := by
  unfold opcodeOf formatM
  refine BitVec.eq_of_getLsbD_eq fun i hi => ?_
  simp only [BitVec.getLsbD_extractLsb', BitVec.getLsbD_append, hi, decide_true, Bool.true_and]
  split_ifs <;> first | omega | (congr 1; omega)

@[simp] theorem fieldA_formatM (op : BitVec 6) (rd : RegNum) (hw : BitVec 2) (imm : BitVec 16) : fieldA (formatM op rd hw imm) = rd := by
  unfold fieldA formatM
  refine BitVec.eq_of_getLsbD_eq fun i hi => ?_
  simp only [BitVec.getLsbD_extractLsb', BitVec.getLsbD_append, hi, decide_true, Bool.true_and]
  split_ifs <;> first | omega | (congr 1; omega)

@[simp] theorem hwOf_formatM (op : BitVec 6) (rd : RegNum) (hw : BitVec 2) (imm : BitVec 16) : hwOf (formatM op rd hw imm) = hw := by
  unfold hwOf formatM
  refine BitVec.eq_of_getLsbD_eq fun i hi => ?_
  simp only [BitVec.getLsbD_extractLsb', BitVec.getLsbD_append, hi, decide_true, Bool.true_and]
  split_ifs <;> first | omega | (congr 1; omega)

@[simp] theorem imm16Of_formatM (op : BitVec 6) (rd : RegNum) (hw : BitVec 2) (imm : BitVec 16) : imm16Of (formatM op rd hw imm) = imm := by
  unfold imm16Of formatM
  refine BitVec.eq_of_getLsbD_eq fun i hi => ?_
  simp only [BitVec.getLsbD_extractLsb', BitVec.getLsbD_append, hi, decide_true, Bool.true_and]
  split_ifs <;> first | omega | (congr 1; omega)

/-! ### Format N -/

@[simp] theorem opcodeOf_formatN (op : BitVec 6) : opcodeOf (formatN op) = op := by
  unfold opcodeOf formatN
  refine BitVec.eq_of_getLsbD_eq fun i hi => ?_
  simp only [BitVec.getLsbD_extractLsb', BitVec.getLsbD_append, hi, decide_true, Bool.true_and]
  split_ifs <;> first | omega | (congr 1; omega)

/-! ### CSR numbers -/

/-- A CSR's number is assigned to it (10_state.md R39). -/
@[simp] theorem csrOfNumber_number (c : Csr) : csrOfNumber c.number = some c := by
  cases c <;> rfl

end Sys2Proof
end

