-- ==== Sys2Proof/Laws/State.lean ====
section
/-! SUPPORT. One lemma per field per update of the state, each by `rfl`, and the reads of registers, bytes and words
after each update. Later proofs cite these instead of unfolding a record update. -/

namespace Sys2Proof.Machine

variable (s : State)

/-! ### After `setX` -/

@[simp] theorem State.setX_params (r : RegNum) (v : Word) : (s.setX r v).params = s.params := rfl
@[simp] theorem State.setX_regs (r : RegNum) (v : Word) : (s.setX r v).regs = if r = 0 then s.regs else s.regs.set (regIndex r) v := rfl
@[simp] theorem State.setX_pc (r : RegNum) (v : Word) : (s.setX r v).pc = s.pc := rfl
@[simp] theorem State.setX_crc (r : RegNum) (v : Word) : (s.setX r v).crc = s.crc := rfl
@[simp] theorem State.setX_status (r : RegNum) (v : Word) : (s.setX r v).status = s.status := rfl
@[simp] theorem State.setX_cause (r : RegNum) (v : Word) : (s.setX r v).cause = s.cause := rfl
@[simp] theorem State.setX_epc (r : RegNum) (v : Word) : (s.setX r v).epc = s.epc := rfl
@[simp] theorem State.setX_einfo0 (r : RegNum) (v : Word) : (s.setX r v).einfo0 = s.einfo0 := rfl
@[simp] theorem State.setX_einfo1 (r : RegNum) (v : Word) : (s.setX r v).einfo1 = s.einfo1 := rfl
@[simp] theorem State.setX_imem (r : RegNum) (v : Word) : (s.setX r v).imem = s.imem := rfl
@[simp] theorem State.setX_dmem (r : RegNum) (v : Word) : (s.setX r v).dmem = s.dmem := rfl
@[simp] theorem State.setX_powerOns (r : RegNum) (v : Word) : (s.setX r v).powerOns = s.powerOns := rfl
@[simp] theorem State.setX_inputs (r : RegNum) (v : Word) : (s.setX r v).inputs = s.inputs := rfl
@[simp] theorem State.setX_replies (r : RegNum) (v : Word) : (s.setX r v).replies = s.replies := rfl
@[simp] theorem State.setX_byte (r : RegNum) (v : Word) (k : Nat) : (s.setX r v).byte k = s.byte k := rfl
@[simp] theorem State.setX_word (r : RegNum) (v : Word) (k : Nat) : (s.setX r v).word k = s.word k := rfl

/-! ### After `setPc` -/

@[simp] theorem State.setPc_params (v : Word32) : (s.setPc v).params = s.params := rfl
@[simp] theorem State.setPc_regs (v : Word32) : (s.setPc v).regs = s.regs := rfl
@[simp] theorem State.setPc_pc (v : Word32) : (s.setPc v).pc = v := rfl
@[simp] theorem State.setPc_crc (v : Word32) : (s.setPc v).crc = s.crc := rfl
@[simp] theorem State.setPc_status (v : Word32) : (s.setPc v).status = s.status := rfl
@[simp] theorem State.setPc_cause (v : Word32) : (s.setPc v).cause = s.cause := rfl
@[simp] theorem State.setPc_epc (v : Word32) : (s.setPc v).epc = s.epc := rfl
@[simp] theorem State.setPc_einfo0 (v : Word32) : (s.setPc v).einfo0 = s.einfo0 := rfl
@[simp] theorem State.setPc_einfo1 (v : Word32) : (s.setPc v).einfo1 = s.einfo1 := rfl
@[simp] theorem State.setPc_imem (v : Word32) : (s.setPc v).imem = s.imem := rfl
@[simp] theorem State.setPc_dmem (v : Word32) : (s.setPc v).dmem = s.dmem := rfl
@[simp] theorem State.setPc_powerOns (v : Word32) : (s.setPc v).powerOns = s.powerOns := rfl
@[simp] theorem State.setPc_inputs (v : Word32) : (s.setPc v).inputs = s.inputs := rfl
@[simp] theorem State.setPc_replies (v : Word32) : (s.setPc v).replies = s.replies := rfl
@[simp] theorem State.setPc_x (v : Word32) (q : RegNum) : (s.setPc v).x q = s.x q := rfl
@[simp] theorem State.setPc_byte (v : Word32) (k : Nat) : (s.setPc v).byte k = s.byte k := rfl
@[simp] theorem State.setPc_word (v : Word32) (k : Nat) : (s.setPc v).word k = s.word k := rfl

/-! ### After `setCrc` -/

@[simp] theorem State.setCrc_params (c : Word32) : (s.setCrc c).params = s.params := rfl
@[simp] theorem State.setCrc_regs (c : Word32) : (s.setCrc c).regs = s.regs := rfl
@[simp] theorem State.setCrc_pc (c : Word32) : (s.setCrc c).pc = s.pc := rfl
@[simp] theorem State.setCrc_crc (c : Word32) : (s.setCrc c).crc = c := rfl
@[simp] theorem State.setCrc_status (c : Word32) : (s.setCrc c).status = s.status := rfl
@[simp] theorem State.setCrc_cause (c : Word32) : (s.setCrc c).cause = s.cause := rfl
@[simp] theorem State.setCrc_epc (c : Word32) : (s.setCrc c).epc = s.epc := rfl
@[simp] theorem State.setCrc_einfo0 (c : Word32) : (s.setCrc c).einfo0 = s.einfo0 := rfl
@[simp] theorem State.setCrc_einfo1 (c : Word32) : (s.setCrc c).einfo1 = s.einfo1 := rfl
@[simp] theorem State.setCrc_imem (c : Word32) : (s.setCrc c).imem = s.imem := rfl
@[simp] theorem State.setCrc_dmem (c : Word32) : (s.setCrc c).dmem = s.dmem := rfl
@[simp] theorem State.setCrc_powerOns (c : Word32) : (s.setCrc c).powerOns = s.powerOns := rfl
@[simp] theorem State.setCrc_inputs (c : Word32) : (s.setCrc c).inputs = s.inputs := rfl
@[simp] theorem State.setCrc_replies (c : Word32) : (s.setCrc c).replies = s.replies := rfl
@[simp] theorem State.setCrc_x (c : Word32) (q : RegNum) : (s.setCrc c).x q = s.x q := rfl
@[simp] theorem State.setCrc_byte (c : Word32) (k : Nat) : (s.setCrc c).byte k = s.byte k := rfl
@[simp] theorem State.setCrc_word (c : Word32) (k : Nat) : (s.setCrc c).word k = s.word k := rfl

/-! ### After `setStatus` -/

@[simp] theorem State.setStatus_params (v : RunStatus) : (s.setStatus v).params = s.params := rfl
@[simp] theorem State.setStatus_regs (v : RunStatus) : (s.setStatus v).regs = s.regs := rfl
@[simp] theorem State.setStatus_pc (v : RunStatus) : (s.setStatus v).pc = s.pc := rfl
@[simp] theorem State.setStatus_crc (v : RunStatus) : (s.setStatus v).crc = s.crc := rfl
@[simp] theorem State.setStatus_status (v : RunStatus) : (s.setStatus v).status = v := rfl
@[simp] theorem State.setStatus_cause (v : RunStatus) : (s.setStatus v).cause = s.cause := rfl
@[simp] theorem State.setStatus_epc (v : RunStatus) : (s.setStatus v).epc = s.epc := rfl
@[simp] theorem State.setStatus_einfo0 (v : RunStatus) : (s.setStatus v).einfo0 = s.einfo0 := rfl
@[simp] theorem State.setStatus_einfo1 (v : RunStatus) : (s.setStatus v).einfo1 = s.einfo1 := rfl
@[simp] theorem State.setStatus_imem (v : RunStatus) : (s.setStatus v).imem = s.imem := rfl
@[simp] theorem State.setStatus_dmem (v : RunStatus) : (s.setStatus v).dmem = s.dmem := rfl
@[simp] theorem State.setStatus_powerOns (v : RunStatus) : (s.setStatus v).powerOns = s.powerOns := rfl
@[simp] theorem State.setStatus_inputs (v : RunStatus) : (s.setStatus v).inputs = s.inputs := rfl
@[simp] theorem State.setStatus_replies (v : RunStatus) : (s.setStatus v).replies = s.replies := rfl
@[simp] theorem State.setStatus_x (v : RunStatus) (q : RegNum) : (s.setStatus v).x q = s.x q := rfl
@[simp] theorem State.setStatus_byte (v : RunStatus) (k : Nat) : (s.setStatus v).byte k = s.byte k := rfl
@[simp] theorem State.setStatus_word (v : RunStatus) (k : Nat) : (s.setStatus v).word k = s.word k := rfl

/-! ### After `advance` -/

@[simp] theorem State.advance_params : (s.advance).params = s.params := rfl
@[simp] theorem State.advance_regs : (s.advance).regs = s.regs := rfl
@[simp] theorem State.advance_pc : (s.advance).pc = s.pc + 1 := rfl
@[simp] theorem State.advance_crc : (s.advance).crc = s.crc := rfl
@[simp] theorem State.advance_status : (s.advance).status = s.status := rfl
@[simp] theorem State.advance_cause : (s.advance).cause = s.cause := rfl
@[simp] theorem State.advance_epc : (s.advance).epc = s.epc := rfl
@[simp] theorem State.advance_einfo0 : (s.advance).einfo0 = s.einfo0 := rfl
@[simp] theorem State.advance_einfo1 : (s.advance).einfo1 = s.einfo1 := rfl
@[simp] theorem State.advance_imem : (s.advance).imem = s.imem := rfl
@[simp] theorem State.advance_dmem : (s.advance).dmem = s.dmem := rfl
@[simp] theorem State.advance_powerOns : (s.advance).powerOns = s.powerOns := rfl
@[simp] theorem State.advance_inputs : (s.advance).inputs = s.inputs := rfl
@[simp] theorem State.advance_replies : (s.advance).replies = s.replies := rfl
@[simp] theorem State.advance_x (q : RegNum) : (s.advance).x q = s.x q := rfl
@[simp] theorem State.advance_byte (k : Nat) : (s.advance).byte k = s.byte k := rfl
@[simp] theorem State.advance_word (k : Nat) : (s.advance).word k = s.word k := rfl

/-! ### After `takeFault` -/

@[simp] theorem State.takeFault_params (c : Cause) (e0 e1 : Word) : (s.takeFault c e0 e1).params = s.params := rfl
@[simp] theorem State.takeFault_regs (c : Cause) (e0 e1 : Word) : (s.takeFault c e0 e1).regs = s.regs := rfl
@[simp] theorem State.takeFault_pc (c : Cause) (e0 e1 : Word) : (s.takeFault c e0 e1).pc = s.pc := rfl
@[simp] theorem State.takeFault_crc (c : Cause) (e0 e1 : Word) : (s.takeFault c e0 e1).crc = s.crc := rfl
@[simp] theorem State.takeFault_status (c : Cause) (e0 e1 : Word) : (s.takeFault c e0 e1).status = .faulted := rfl
@[simp] theorem State.takeFault_cause (c : Cause) (e0 e1 : Word) : (s.takeFault c e0 e1).cause = c := rfl
@[simp] theorem State.takeFault_epc (c : Cause) (e0 e1 : Word) : (s.takeFault c e0 e1).epc = s.pc := rfl
@[simp] theorem State.takeFault_einfo0 (c : Cause) (e0 e1 : Word) : (s.takeFault c e0 e1).einfo0 = e0 := rfl
@[simp] theorem State.takeFault_einfo1 (c : Cause) (e0 e1 : Word) : (s.takeFault c e0 e1).einfo1 = e1 := rfl
@[simp] theorem State.takeFault_imem (c : Cause) (e0 e1 : Word) : (s.takeFault c e0 e1).imem = s.imem := rfl
@[simp] theorem State.takeFault_dmem (c : Cause) (e0 e1 : Word) : (s.takeFault c e0 e1).dmem = s.dmem := rfl
@[simp] theorem State.takeFault_powerOns (c : Cause) (e0 e1 : Word) : (s.takeFault c e0 e1).powerOns = s.powerOns := rfl
@[simp] theorem State.takeFault_inputs (c : Cause) (e0 e1 : Word) : (s.takeFault c e0 e1).inputs = s.inputs := rfl
@[simp] theorem State.takeFault_replies (c : Cause) (e0 e1 : Word) : (s.takeFault c e0 e1).replies = s.replies := rfl
@[simp] theorem State.takeFault_x (c : Cause) (e0 e1 : Word) (q : RegNum) : (s.takeFault c e0 e1).x q = s.x q := rfl
@[simp] theorem State.takeFault_byte (c : Cause) (e0 e1 : Word) (k : Nat) : (s.takeFault c e0 e1).byte k = s.byte k := rfl
@[simp] theorem State.takeFault_word (c : Cause) (e0 e1 : Word) (k : Nat) : (s.takeFault c e0 e1).word k = s.word k := rfl

/-! ### After `memWrite` -/

@[simp] theorem State.memWrite_params (a : Nat) (bytes : List Byte) : (s.memWrite a bytes).params = s.params := rfl
@[simp] theorem State.memWrite_regs (a : Nat) (bytes : List Byte) : (s.memWrite a bytes).regs = s.regs := rfl
@[simp] theorem State.memWrite_pc (a : Nat) (bytes : List Byte) : (s.memWrite a bytes).pc = s.pc := rfl
@[simp] theorem State.memWrite_crc (a : Nat) (bytes : List Byte) : (s.memWrite a bytes).crc = s.crc := rfl
@[simp] theorem State.memWrite_status (a : Nat) (bytes : List Byte) : (s.memWrite a bytes).status = s.status := rfl
@[simp] theorem State.memWrite_cause (a : Nat) (bytes : List Byte) : (s.memWrite a bytes).cause = s.cause := rfl
@[simp] theorem State.memWrite_epc (a : Nat) (bytes : List Byte) : (s.memWrite a bytes).epc = s.epc := rfl
@[simp] theorem State.memWrite_einfo0 (a : Nat) (bytes : List Byte) : (s.memWrite a bytes).einfo0 = s.einfo0 := rfl
@[simp] theorem State.memWrite_einfo1 (a : Nat) (bytes : List Byte) : (s.memWrite a bytes).einfo1 = s.einfo1 := rfl
@[simp] theorem State.memWrite_imem (a : Nat) (bytes : List Byte) : (s.memWrite a bytes).imem = s.imem := rfl
@[simp] theorem State.memWrite_dmem (a : Nat) (bytes : List Byte) : (s.memWrite a bytes).dmem = writeBytes s.dmem a bytes := rfl
@[simp] theorem State.memWrite_powerOns (a : Nat) (bytes : List Byte) : (s.memWrite a bytes).powerOns = s.powerOns := rfl
@[simp] theorem State.memWrite_inputs (a : Nat) (bytes : List Byte) : (s.memWrite a bytes).inputs = s.inputs := rfl
@[simp] theorem State.memWrite_replies (a : Nat) (bytes : List Byte) : (s.memWrite a bytes).replies = s.replies := rfl
@[simp] theorem State.memWrite_x (a : Nat) (bytes : List Byte) (q : RegNum) : (s.memWrite a bytes).x q = s.x q := rfl
@[simp] theorem State.memWrite_word (a : Nat) (bytes : List Byte) (k : Nat) : (s.memWrite a bytes).word k = s.word k := rfl

/-! ### After `setWord` -/

@[simp] theorem State.setWord_params (i : Nat) (w : Word32) : (s.setWord i w).params = s.params := rfl
@[simp] theorem State.setWord_regs (i : Nat) (w : Word32) : (s.setWord i w).regs = s.regs := rfl
@[simp] theorem State.setWord_pc (i : Nat) (w : Word32) : (s.setWord i w).pc = s.pc := rfl
@[simp] theorem State.setWord_crc (i : Nat) (w : Word32) : (s.setWord i w).crc = s.crc := rfl
@[simp] theorem State.setWord_status (i : Nat) (w : Word32) : (s.setWord i w).status = s.status := rfl
@[simp] theorem State.setWord_cause (i : Nat) (w : Word32) : (s.setWord i w).cause = s.cause := rfl
@[simp] theorem State.setWord_epc (i : Nat) (w : Word32) : (s.setWord i w).epc = s.epc := rfl
@[simp] theorem State.setWord_einfo0 (i : Nat) (w : Word32) : (s.setWord i w).einfo0 = s.einfo0 := rfl
@[simp] theorem State.setWord_einfo1 (i : Nat) (w : Word32) : (s.setWord i w).einfo1 = s.einfo1 := rfl
@[simp] theorem State.setWord_imem (i : Nat) (w : Word32) : (s.setWord i w).imem = writeCell s.imem i w := rfl
@[simp] theorem State.setWord_dmem (i : Nat) (w : Word32) : (s.setWord i w).dmem = s.dmem := rfl
@[simp] theorem State.setWord_powerOns (i : Nat) (w : Word32) : (s.setWord i w).powerOns = s.powerOns := rfl
@[simp] theorem State.setWord_inputs (i : Nat) (w : Word32) : (s.setWord i w).inputs = s.inputs := rfl
@[simp] theorem State.setWord_replies (i : Nat) (w : Word32) : (s.setWord i w).replies = s.replies := rfl
@[simp] theorem State.setWord_x (i : Nat) (w : Word32) (q : RegNum) : (s.setWord i w).x q = s.x q := rfl
@[simp] theorem State.setWord_byte (i : Nat) (w : Word32) (k : Nat) : (s.setWord i w).byte k = s.byte k := rfl

/-! ### After `start` -/

@[simp] theorem State.start_params : (s.start).params = s.params := rfl
@[simp] theorem State.start_regs : (s.start).regs = s.regs := rfl
@[simp] theorem State.start_pc : (s.start).pc = s.pc := rfl
@[simp] theorem State.start_crc : (s.start).crc = s.crc := rfl
@[simp] theorem State.start_status : (s.start).status = .running := rfl
@[simp] theorem State.start_cause : (s.start).cause = .none := rfl
@[simp] theorem State.start_epc : (s.start).epc = s.epc := rfl
@[simp] theorem State.start_einfo0 : (s.start).einfo0 = 0 := rfl
@[simp] theorem State.start_einfo1 : (s.start).einfo1 = 0 := rfl
@[simp] theorem State.start_imem : (s.start).imem = s.imem := rfl
@[simp] theorem State.start_dmem : (s.start).dmem = s.dmem := rfl
@[simp] theorem State.start_powerOns : (s.start).powerOns = s.powerOns := rfl
@[simp] theorem State.start_inputs : (s.start).inputs = s.inputs := rfl
@[simp] theorem State.start_replies : (s.start).replies = s.replies := rfl
@[simp] theorem State.start_x (q : RegNum) : (s.start).x q = s.x q := rfl
@[simp] theorem State.start_byte (k : Nat) : (s.start).byte k = s.byte k := rfl
@[simp] theorem State.start_word (k : Nat) : (s.start).word k = s.word k := rfl

/-! ### After `softReset` -/

@[simp] theorem State.softReset_params : (s.softReset).params = s.params := rfl
@[simp] theorem State.softReset_regs : (s.softReset).regs = Vector.replicate 15 0 := rfl
@[simp] theorem State.softReset_pc : (s.softReset).pc = 0 := rfl
@[simp] theorem State.softReset_crc : (s.softReset).crc = crcInit := rfl
@[simp] theorem State.softReset_status : (s.softReset).status = .idle := rfl
@[simp] theorem State.softReset_cause : (s.softReset).cause = .none := rfl
@[simp] theorem State.softReset_epc : (s.softReset).epc = 0 := rfl
@[simp] theorem State.softReset_einfo0 : (s.softReset).einfo0 = 0 := rfl
@[simp] theorem State.softReset_einfo1 : (s.softReset).einfo1 = 0 := rfl
@[simp] theorem State.softReset_imem : (s.softReset).imem = s.imem := rfl
@[simp] theorem State.softReset_dmem : (s.softReset).dmem = s.dmem := rfl
@[simp] theorem State.softReset_powerOns : (s.softReset).powerOns = s.powerOns := rfl
@[simp] theorem State.softReset_inputs : (s.softReset).inputs = s.inputs := rfl
@[simp] theorem State.softReset_replies : (s.softReset).replies = s.replies := rfl
@[simp] theorem State.softReset_byte (k : Nat) : (s.softReset).byte k = s.byte k := rfl
@[simp] theorem State.softReset_word (k : Nat) : (s.softReset).word k = s.word k := rfl

/-! ### After `powerOnReset` -/

@[simp] theorem State.powerOnReset_params : (s.powerOnReset).params = s.params := rfl
@[simp] theorem State.powerOnReset_regs : (s.powerOnReset).regs = Vector.replicate 15 0 := rfl
@[simp] theorem State.powerOnReset_pc : (s.powerOnReset).pc = 0 := rfl
@[simp] theorem State.powerOnReset_crc : (s.powerOnReset).crc = crcInit := rfl
@[simp] theorem State.powerOnReset_status : (s.powerOnReset).status = .idle := rfl
@[simp] theorem State.powerOnReset_cause : (s.powerOnReset).cause = .none := rfl
@[simp] theorem State.powerOnReset_epc : (s.powerOnReset).epc = 0 := rfl
@[simp] theorem State.powerOnReset_einfo0 : (s.powerOnReset).einfo0 = 0 := rfl
@[simp] theorem State.powerOnReset_einfo1 : (s.powerOnReset).einfo1 = 0 := rfl
@[simp] theorem State.powerOnReset_imem : (s.powerOnReset).imem = [] := rfl
@[simp] theorem State.powerOnReset_dmem : (s.powerOnReset).dmem = [] := rfl
@[simp] theorem State.powerOnReset_powerOns : (s.powerOnReset).powerOns = s.powerOns + 1 := rfl
@[simp] theorem State.powerOnReset_inputs : (s.powerOnReset).inputs = s.inputs := rfl
@[simp] theorem State.powerOnReset_replies : (s.powerOnReset).replies = s.replies := rfl

/-! ### After `reply` -/

@[simp] theorem State.reply_params (v : Word) : (s.reply v).params = s.params := rfl
@[simp] theorem State.reply_regs (v : Word) : (s.reply v).regs = s.regs := rfl
@[simp] theorem State.reply_pc (v : Word) : (s.reply v).pc = s.pc := rfl
@[simp] theorem State.reply_crc (v : Word) : (s.reply v).crc = s.crc := rfl
@[simp] theorem State.reply_status (v : Word) : (s.reply v).status = s.status := rfl
@[simp] theorem State.reply_cause (v : Word) : (s.reply v).cause = s.cause := rfl
@[simp] theorem State.reply_epc (v : Word) : (s.reply v).epc = s.epc := rfl
@[simp] theorem State.reply_einfo0 (v : Word) : (s.reply v).einfo0 = s.einfo0 := rfl
@[simp] theorem State.reply_einfo1 (v : Word) : (s.reply v).einfo1 = s.einfo1 := rfl
@[simp] theorem State.reply_imem (v : Word) : (s.reply v).imem = s.imem := rfl
@[simp] theorem State.reply_dmem (v : Word) : (s.reply v).dmem = s.dmem := rfl
@[simp] theorem State.reply_powerOns (v : Word) : (s.reply v).powerOns = s.powerOns := rfl
@[simp] theorem State.reply_inputs (v : Word) : (s.reply v).inputs = s.inputs := rfl
@[simp] theorem State.reply_replies (v : Word) : (s.reply v).replies = s.replies ++ [v] := rfl
@[simp] theorem State.reply_x (v : Word) (q : RegNum) : (s.reply v).x q = s.x q := rfl
@[simp] theorem State.reply_byte (v : Word) (k : Nat) : (s.reply v).byte k = s.byte k := rfl
@[simp] theorem State.reply_word (v : Word) (k : Nat) : (s.reply v).word k = s.word k := rfl

/-! ### After `setInputs` -/

@[simp] theorem State.setInputs_params (pending : List Input) : (s.setInputs pending).params = s.params := rfl
@[simp] theorem State.setInputs_regs (pending : List Input) : (s.setInputs pending).regs = s.regs := rfl
@[simp] theorem State.setInputs_pc (pending : List Input) : (s.setInputs pending).pc = s.pc := rfl
@[simp] theorem State.setInputs_crc (pending : List Input) : (s.setInputs pending).crc = s.crc := rfl
@[simp] theorem State.setInputs_status (pending : List Input) : (s.setInputs pending).status = s.status := rfl
@[simp] theorem State.setInputs_cause (pending : List Input) : (s.setInputs pending).cause = s.cause := rfl
@[simp] theorem State.setInputs_epc (pending : List Input) : (s.setInputs pending).epc = s.epc := rfl
@[simp] theorem State.setInputs_einfo0 (pending : List Input) : (s.setInputs pending).einfo0 = s.einfo0 := rfl
@[simp] theorem State.setInputs_einfo1 (pending : List Input) : (s.setInputs pending).einfo1 = s.einfo1 := rfl
@[simp] theorem State.setInputs_imem (pending : List Input) : (s.setInputs pending).imem = s.imem := rfl
@[simp] theorem State.setInputs_dmem (pending : List Input) : (s.setInputs pending).dmem = s.dmem := rfl
@[simp] theorem State.setInputs_powerOns (pending : List Input) : (s.setInputs pending).powerOns = s.powerOns := rfl
@[simp] theorem State.setInputs_inputs (pending : List Input) : (s.setInputs pending).inputs = pending := rfl
@[simp] theorem State.setInputs_replies (pending : List Input) : (s.setInputs pending).replies = s.replies := rfl
@[simp] theorem State.setInputs_x (pending : List Input) (q : RegNum) : (s.setInputs pending).x q = s.x q := rfl
@[simp] theorem State.setInputs_byte (pending : List Input) (k : Nat) : (s.setInputs pending).byte k = s.byte k := rfl
@[simp] theorem State.setInputs_word (pending : List Input) (k : Nat) : (s.setInputs pending).word k = s.word k := rfl

/-! ### Reading registers -/

/-- r0 is hardwired to zero (10_state.md R31). -/
@[simp] theorem State.x_zero : s.x 0 = 0 := rfl

/-- A register read after a register write (10_state.md R31, R32). -/
@[simp] theorem State.setX_x (r : RegNum) (v : Word) (q : RegNum) :
    (s.setX r v).x q = if q = r ∧ q ≠ 0 then v else s.x q := by
  by_cases hq : q = 0
  · simp [State.x, hq]
  by_cases hr : r = 0
  · subst hr; simp [State.x, State.setX]
  · have hne : regIndex r = regIndex q ↔ q = r := by
      constructor
      · intro h
        have h' : r.toNat - 1 = q.toNat - 1 := congrArg Fin.val h
        have hq' : q.toNat ≠ 0 := fun e => hq (by simpa using BitVec.eq_of_toNat_eq (y := 0#4) (by simpa using e))
        have hr' : r.toNat ≠ 0 := fun e => hr (by simpa using BitVec.eq_of_toNat_eq (y := 0#4) (by simpa using e))
        exact BitVec.eq_of_toNat_eq (by omega)
      · rintro rfl; rfl
    simp only [State.x, State.setX, hq, hr, if_false, not_false_eq_true, and_true, ne_eq]
    by_cases h : q = r
    · subst h; simp
    · have : ¬ (regIndex r).val = (regIndex q).val := fun e => h (hne.mp (Fin.ext e))
      simp [h, this]

/-- A register whose number is not written reads as before. -/
theorem State.setX_x_other (r : RegNum) (v : Word) (q : RegNum) (h : q ≠ r) : (s.setX r v).x q = s.x q := by
  simp [h]

/-- After a reset every register reads 0 (70_reset_and_hazards.md R340). -/
@[simp] theorem State.softReset_x (q : RegNum) : s.softReset.x q = 0 := by
  simp only [State.x, State.softReset_regs]; split <;> simp

/-- After power-on reset every register reads 0 (70_reset_and_hazards.md R340). -/
@[simp] theorem State.powerOnReset_x (q : RegNum) : s.powerOnReset.x q = 0 := by
  simp only [State.x, State.powerOnReset_regs]; split <;> simp

end Sys2Proof.Machine
end

