-- ==== Sys2Proof/Laws/Memory.lean ====
section
/-! SUPPORT. The memories: a read after a write, the canonical form kept by every write, and equal reads of canonical
memories are equal memories. Byte sequences and their big-endian values. -/

namespace Sys2Proof.Machine

variable {α : Type}

/-! ### Cells -/

@[simp] theorem readCell_nil (a : Nat) : readCell ([] : Memory α) a = none := rfl

/-- A cell reads as it was written. -/
@[simp] theorem readCell_writeCell_same (m : Memory α) (a : Nat) (v : α) : readCell (writeCell m a v) a = some v := by
  induction m with
  | nil => simp [writeCell, readCell]
  | cons c rest ih =>
    obtain ⟨k, u⟩ := c
    unfold writeCell
    split
    · simp [readCell]
    · split
      · simp [readCell]
      · rename_i h; simp [readCell, Ne.symm h, ih]

/-- Writing one cell leaves every other cell alone. -/
theorem readCell_writeCell_other (m : Memory α) {a b : Nat} (v : α) (h : b ≠ a) :
    readCell (writeCell m a v) b = readCell m b := by
  induction m with
  | nil => simp [writeCell, readCell, Ne.symm h]
  | cons c rest ih =>
    obtain ⟨k, u⟩ := c
    unfold writeCell
    split
    · simp [readCell, Ne.symm h]
    · split
      · rename_i _ e; subst e; simp [readCell, Ne.symm h]
      · simp only [readCell, ih]

/-- Every cell of a written memory was there before or is the one written. -/
theorem mem_writeCell {m : Memory α} {a : Nat} {v : α} {c : Nat × α} (h : c ∈ writeCell m a v) :
    c = (a, v) ∨ c ∈ m := by
  induction m with
  | nil => exact .inl (by simpa [writeCell] using h)
  | cons d rest ih =>
    obtain ⟨k, u⟩ := d
    unfold writeCell at h
    split at h
    · simpa using h
    · split at h
      · rcases List.mem_cons.mp h with h | h
        · exact .inl h
        · exact .inr (List.mem_cons_of_mem _ h)
      · rcases List.mem_cons.mp h with h | h
        · exact .inr (h ▸ List.mem_cons_self ..)
        · exact (ih h).imp id (List.mem_cons_of_mem _)

/-- A write keeps the canonical form. -/
theorem writeCell_wf {m : Memory α} (hm : Memory.wf m) (a : Nat) (v : α) : Memory.wf (writeCell m a v) := by
  induction m with
  | nil => simp [writeCell]
  | cons d rest ih =>
    obtain ⟨k, u⟩ := d
    obtain ⟨hk, hrest⟩ := List.pairwise_cons.mp hm
    unfold writeCell
    split
    · rename_i hlt
      refine List.pairwise_cons.mpr ⟨fun c hc => ?_, hm⟩
      rcases List.mem_cons.mp hc with rfl | hc
      · exact hlt
      · exact hlt.trans (hk c hc)
    · split
      · rename_i _ e; subst e; exact List.pairwise_cons.mpr ⟨hk, hrest⟩
      · rename_i h1 h2
        refine List.pairwise_cons.mpr ⟨fun c hc => ?_, ih hrest⟩
        rcases mem_writeCell hc with rfl | hc
        · show k < a; omega
        · exact hk c hc

/-- A write inside the memory lists only cells inside it. -/
theorem writeCell_inside {m : Memory α} {n : Nat} (hm : ∀ c ∈ m, c.1 < n) {a : Nat} (ha : a < n) (v : α) :
    ∀ c ∈ writeCell m a v, c.1 < n := fun c hc => by
  rcases mem_writeCell hc with rfl | hc
  · exact ha
  · exact hm c hc

theorem readCell_none_of_lt {m : Memory α} {a : Nat} (h : ∀ c ∈ m, a < c.1) : readCell m a = none := by
  induction m with
  | nil => rfl
  | cons d rest ih =>
    obtain ⟨k, u⟩ := d
    have hk : a < k := h (k, u) (List.mem_cons_self ..)
    simp [readCell, Nat.ne_of_gt hk, ih fun c hc => h c (List.mem_cons_of_mem _ hc)]

/-- Canonical memories that hold the same written cells are equal as data. -/
theorem Memory.ext_of_wf {m n : Memory α} (hm : Memory.wf m) (hn : Memory.wf n)
    (h : ∀ a, readCell m a = readCell n a) : m = n := by
  induction m generalizing n with
  | nil =>
    cases n with
    | nil => rfl
    | cons d rest => obtain ⟨k, u⟩ := d; simpa [readCell] using h k
  | cons c rest ih =>
    obtain ⟨k, u⟩ := c
    obtain ⟨hk, hrest⟩ := List.pairwise_cons.mp hm
    cases n with
    | nil => simpa [readCell] using h k
    | cons d rest' =>
      obtain ⟨k', u'⟩ := d
      obtain ⟨hk', hrest'⟩ := List.pairwise_cons.mp hn
      have hkk : k = k' := by
        rcases Nat.lt_trichotomy k k' with hlt | he | hgt
        · have := h k
          rw [readCell_none_of_lt (m := (k', u') :: rest') (a := k) fun c hc => by
            rcases List.mem_cons.mp hc with rfl | hc
            · exact hlt
            · exact hlt.trans (hk' c hc)] at this
          simp [readCell] at this
        · exact he
        · have := h k'
          rw [readCell_none_of_lt (m := (k, u) :: rest) (a := k') fun c hc => by
            rcases List.mem_cons.mp hc with rfl | hc
            · exact hgt
            · exact hgt.trans (hk c hc)] at this
          simp [readCell] at this
      subst hkk
      have huu : u = u' := by simpa [readCell] using h k
      subst huu
      refine congrArg _ (ih hrest hrest' fun a => ?_)
      by_cases ha : k = a
      · subst ha; rw [readCell_none_of_lt hk, readCell_none_of_lt hk']
      · simpa [readCell, ha] using h a

/-! ### Runs of bytes -/

theorem writeBytes_wf {m : Memory Byte} (hm : Memory.wf m) (a : Nat) (bytes : List Byte) :
    Memory.wf (writeBytes m a bytes) := by
  induction bytes generalizing m a with
  | nil => exact hm
  | cons b rest ih => exact ih (writeCell_wf hm a b) (a + 1)

theorem writeBytes_inside {m : Memory Byte} {n : Nat} (hm : ∀ c ∈ m, c.1 < n) {a : Nat} (bytes : List Byte)
    (ha : bytes.length = 0 ∨ a + bytes.length ≤ n) : ∀ c ∈ writeBytes m a bytes, c.1 < n := by
  induction bytes generalizing m a with
  | nil => exact hm
  | cons b rest ih =>
    simp only [List.length_cons] at ha
    exact ih (writeCell_inside hm (by omega) b) (by omega)

/-- A byte outside the stored run is unchanged. -/
theorem readCell_writeBytes_other (m : Memory Byte) {a b : Nat} (bytes : List Byte)
    (h : b < a ∨ a + bytes.length ≤ b) : readCell (writeBytes m a bytes) b = readCell m b := by
  induction bytes generalizing m a with
  | nil => rfl
  | cons x rest ih =>
    simp only [List.length_cons] at h
    rw [writeBytes, ih _ (by omega), readCell_writeCell_other _ _ (by omega)]

/-- A byte inside the stored run is the stored one. -/
theorem readCell_writeBytes_inside (m : Memory Byte) (a : Nat) (bytes : List Byte) {i : Nat} {b : Byte}
    (h : bytes[i]? = some b) : readCell (writeBytes m a bytes) (a + i) = some b := by
  induction bytes generalizing m a i with
  | nil => simp at h
  | cons x rest ih =>
    cases i with
    | zero =>
      obtain rfl : x = b := by simpa using h
      rw [writeBytes, readCell_writeBytes_other _ _ (by omega)]
      exact readCell_writeCell_same ..
    | succ j =>
      rw [writeBytes, show a + (j + 1) = a + 1 + j by omega]
      exact ih _ _ (by simpa using h)

theorem State.memWrite_byte_other (s : State) {a b : Nat} (bytes : List Byte) (h : b < a ∨ a + bytes.length ≤ b) :
    (s.memWrite a bytes).byte b = s.byte b := by
  simp [State.byte, readCell_writeBytes_other _ _ h]

theorem State.memWrite_byte_inside (s : State) (a : Nat) (bytes : List Byte) {i : Nat} {b : Byte}
    (h : bytes[i]? = some b) : (s.memWrite a bytes).byte (a + i) = b := by
  simp [State.byte, readCell_writeBytes_inside _ _ _ h]

theorem State.setWord_word (s : State) (i : Nat) (w : Word32) (k : Nat) :
    (s.setWord i w).word k = if k = i then w else s.word k := by
  by_cases h : k = i
  · subst h; simp [State.word]
  · simp [State.word, h, readCell_writeCell_other _ _ h]

@[simp] theorem State.memRead_length (s : State) (a n : Nat) : (s.memRead a n).length = n := by
  induction n generalizing a with
  | zero => rfl
  | succ n ih => simp [State.memRead, ih]

/-- The i-th byte of a read is the byte at the i-th address (20_memory.md R63). -/
theorem State.memRead_getElem? (s : State) (a n i : Nat) (h : i < n) :
    (s.memRead a n)[i]? = some (s.byte (a + i)) := by
  induction n generalizing a i with
  | zero => omega
  | succ n ih =>
    cases i with
    | zero => simp [State.memRead]
    | succ j => simpa [State.memRead, show a + 1 + j = a + (j + 1) by omega] using ih (a + 1) j (by omega)

/-- A read depends on the bytes it reads and on nothing else. -/
theorem State.memRead_congr {s t : State} {a b n : Nat} (h : ∀ i < n, s.byte (a + i) = t.byte (b + i)) :
    s.memRead a n = t.memRead b n := by
  refine List.ext_getElem? fun i => ?_
  by_cases hi : i < n
  · rw [State.memRead_getElem? _ _ _ _ hi, State.memRead_getElem? _ _ _ _ hi, h i hi]
  · rw [List.getElem?_eq_none (by simpa using hi), List.getElem?_eq_none (by simpa using hi)]

/-- A read of n + m bytes is the read of the first n followed by the read of the next m. -/
theorem State.memRead_add (s : State) (a n m : Nat) :
    s.memRead a (n + m) = s.memRead a n ++ s.memRead (a + n) m := by
  induction n generalizing a with
  | zero => simp [State.memRead]
  | succ n ih =>
    rw [show n + 1 + m = n + m + 1 by omega, State.memRead, State.memRead, ih,
      show a + 1 + n = a + (n + 1) by omega, List.cons_append]

/-! ### Big-endian byte sequences (00_scope.md R12) -/

@[simp] theorem beBytes_length (n v : Nat) : (beBytes n v).length = n := by
  induction n with
  | zero => rfl
  | succ n ih => simp [beBytes, ih]

theorem beU_foldl (acc : Nat) (bytes : List Byte) :
    bytes.foldl (fun acc b => acc * 256 + b.toNat) acc = acc * 256 ^ bytes.length + beU bytes := by
  induction bytes generalizing acc with
  | nil => simp [beU]
  | cons b rest ih =>
    have h : beU (b :: rest) = (0 * 256 + b.toNat) * 256 ^ rest.length + beU rest := ih _
    rw [List.foldl_cons, ih, h, List.length_cons, pow_succ]; ring

@[simp] theorem beU_nil : beU [] = 0 := rfl

theorem beU_cons (b : Byte) (rest : List Byte) : beU (b :: rest) = b.toNat * 256 ^ rest.length + beU rest := by
  rw [beU, List.foldl_cons, beU_foldl]; simp

theorem beU_append (u v : List Byte) : beU (u ++ v) = beU u * 256 ^ v.length + beU v := by
  rw [beU, List.foldl_append, beU_foldl]; rfl

theorem beU_lt (bytes : List Byte) : beU bytes < 256 ^ bytes.length := by
  induction bytes with
  | nil => simp
  | cons b rest ih =>
    rw [beU_cons, List.length_cons, pow_succ]
    have hb : b.toNat ≤ 255 := by have := b.isLt; omega
    calc b.toNat * 256 ^ rest.length + beU rest < 255 * 256 ^ rest.length + 256 ^ rest.length := by
          have := Nat.mul_le_mul_right (256 ^ rest.length) hb; omega
      _ = 256 ^ rest.length * 256 := by ring

/-- `be_u(be_bytes_n(v)) = trunc_{8n}(v)`. -/
theorem beU_beBytes (n v : Nat) : beU (beBytes n v) = v % 256 ^ n := by
  induction n with
  | zero => simp [beBytes, Nat.mod_one]
  | succ n ih =>
    have h8 : (2 : Nat) ^ (8 * n) = 256 ^ n := by rw [pow_mul]; norm_num
    have h : v % (256 ^ n * 256) = v % 256 ^ n + 256 ^ n * (v / 256 ^ n % 256) := Nat.mod_mul
    rw [beBytes, beU_cons, beBytes_length, ih, BitVec.toNat_ofNat, Nat.shiftRight_eq_div_pow, h8,
      pow_succ (256 : Nat) n, h, Nat.mul_comm (256 ^ n), Nat.add_comm]

end Sys2Proof.Machine
end

