-- ==== Sys2Proof/Laws/Ops.lean ====
section
/-! SUPPORT. What each shared operation can do, said once: the outcomes of `finish`, `finishCrc`, `branch`, `load`,
`store` and `raise`, and the one case distinction over what an instruction, or a step, can be. -/

namespace Sys2Proof.Machine

variable (s : State)

/-! ### Nothing outside the engine changes -/

theorem SameOutside.refl : SameOutside s s := ⟨rfl, fun _ => rfl, rfl, rfl, rfl⟩

theorem SameRecord.refl : SameRecord s s := ⟨rfl, rfl, rfl, rfl⟩

/-! ### Shared outcomes -/

/-- `raise` always takes the fault, and that is all it does (60_exceptions.md R301). -/
theorem State.raise_spec (c : Cause) (e0 e1 : Word) :
    ∃ t, s.raise c e0 e1 = .next t ∧ FaultEntry s t c e0 e1 :=
  ⟨_, rfl, rfl, rfl, rfl, rfl, rfl, rfl, fun _ => rfl, rfl, fun _ => rfl, ⟨rfl, fun _ => rfl, rfl, rfl, rfl⟩⟩

/-- `finish` writes one register and moves to the next instruction. -/
theorem State.finish_spec (rd : RegNum) (v : Word) : ∃ t, s.finish rd v = .next t ∧ RegResult s t rd v :=
  ⟨_, rfl, fun q => by simp, rfl, rfl, rfl, ⟨rfl, rfl, rfl, rfl⟩, fun _ => rfl, ⟨rfl, fun _ => rfl, rfl, rfl, rfl⟩⟩

/-- `finishCrc` writes CRC and moves to the next instruction. -/
theorem State.finishCrc_spec (c : Word32) : ∃ t, s.finishCrc c = .next t ∧ CrcResult s t c :=
  ⟨_, rfl, fun _ => rfl, rfl, rfl, rfl, ⟨rfl, rfl, rfl, rfl⟩, fun _ => rfl, ⟨rfl, fun _ => rfl, rfl, rfl, rfl⟩⟩

/-- A branch moves the pc to its target or to the next instruction, and does nothing else. -/
theorem State.branch_spec (taken : Bool) (off : BitVec 18) :
    ∃ t, s.branch taken off = .next t ∧ PcResult s t (if taken then s.target off else s.pc + 1) := by
  cases taken
  all_goals exact ⟨_, rfl, fun _ => rfl, rfl, rfl, rfl, ⟨rfl, rfl, rfl, rfl⟩, fun _ => rfl, ⟨rfl, fun _ => rfl, rfl, rfl, rfl⟩⟩

/-- A load inside DMEM finishes with the big-endian value. -/
theorem State.load_inside {n : Nat} {ea : Word} (h : s.memCheck ea.toNat n) (rd : RegNum) :
    s.load n rd ea = s.finish rd (BitVec.ofNat 64 (beU (s.memRead ea.toNat n))) := if_pos h

/-- A load that leaves DMEM raises ADDR_FAULT. -/
theorem State.load_outside {n : Nat} {ea : Word} (h : ¬ s.memCheck ea.toNat n) (rd : RegNum) :
    s.load n rd ea = s.raise .addrFault ea (BitVec.ofNat 64 n) := if_neg h

/-- A store inside DMEM stores its bytes and does nothing else. -/
theorem State.store_inside {n : Nat} {ea : Word} (h : s.memCheck ea.toNat n) (v : Word) :
    ∃ t, s.store n v ea = .next t ∧ StoreResult s t ea.toNat (beBytes n v.toNat) :=
  ⟨_, if_pos h, fun _ => rfl, rfl, rfl, rfl, ⟨rfl, rfl, rfl, rfl⟩,
    fun _ _ hb => s.memWrite_byte_inside _ _ hb, fun _ hb => s.memWrite_byte_other _ hb, ⟨rfl, fun _ => rfl, rfl, rfl, rfl⟩⟩

/-- A store that leaves DMEM raises ADDR_FAULT. -/
theorem State.store_outside {n : Nat} {ea : Word} (h : ¬ s.memCheck ea.toNat n) (v : Word) :
    s.store n v ea = s.raise .addrFault ea (BitVec.ofNat 64 n) := if_neg h

/-! ### What an instruction can be -/

/-- Every way an instruction can end, over the shared operations. -/
inductive Ends (s : State) : Result → Prop
  | finish (rd : RegNum) (v : Word) : Ends s (s.finish rd v)
  | crc (c : Word32) : Ends s (s.finishCrc c)
  | store (a : Nat) (bytes : List Byte) (inside : s.memCheck a bytes.length) : Ends s (.next (s.memWrite a bytes).advance)
  | branch (taken : Bool) (off : BitVec 18) : Ends s (s.branch taken off)
  | halt : Ends s (.next (s.setStatus .halted).advance)
  | forge (rd : RegNum) (v : Word) (c : Word32) : Ends s (.next ((s.setX rd v).setCrc c).advance)
  | raise (c : Cause) (e0 e1 : Word) (h : c ≠ .none) : Ends s (s.raise c e0 e1)

theorem State.load_ends (n : Nat) (rd : RegNum) (ea : Word) : Ends s (s.load n rd ea) := by
  unfold State.load; split
  · exact .finish ..
  · exact .raise _ _ _ (by decide)

theorem State.store_ends (n : Nat) (v ea : Word) : Ends s (s.store n v ea) := by
  unfold State.store; split
  · exact .store _ _ (by simpa using ‹s.memCheck _ _›)
  · exact .raise _ _ _ (by decide)

/-- Every instruction ends in one of these ways, so in a next state. -/
theorem exec_ends (i : Instr) : Ends s (exec i s) := by
  cases i with
  | add => exact .finish ..
  | sub => exact .finish ..
  | and => exact .finish ..
  | or => exact .finish ..
  | xor => exact .finish ..
  | addi => exact .finish ..
  | slli => exact .finish ..
  | srli => exact .finish ..
  | movz => exact .finish ..
  | movk => exact .finish ..
  | lb => exact s.load_ends ..
  | lw => exact s.load_ends ..
  | ld => exact s.load_ends ..
  | sb => exact s.store_ends ..
  | sw => exact s.store_ends ..
  | sd => exact s.store_ends ..
  | beq => exact .branch ..
  | bne => exact .branch ..
  | bltu => exact .branch ..
  | csrr => exact .finish ..
  | csrw => exact .crc ..
  | halt => exact .halt
  | crci => exact .crc ..
  | crcb => exact .crc ..
  | crcu =>
    simp only [exec, execCrcu]; split
    · exact .crc ..
    · exact .raise _ _ _ (by decide)
  | crcf => exact .finish ..
  | brev32 => exact .finish ..
  | brev8 => exact .finish ..
  | clmul => exact .finish ..
  | clmulh => exact .finish ..
  | gfdiv => exact .finish ..
  | gfmod => exact .finish ..
  | gfmulmod => exact .finish ..
  | gfinv =>
    simp only [exec, execGfinv]; split
    · exact .raise _ _ _ (by decide)
    · exact .finish ..
  | gfdivx32 =>
    simp only [exec, execGfdivx32]; split
    · exact .raise _ _ _ (by decide)
    · exact .finish ..
  | forge =>
    simp only [exec, execForge]; split
    · exact .forge ..
    · exact .raise _ _ _ (by decide)

/-- A word that is executed ends as an instruction does, or in ILLEGAL_INSTRUCTION. -/
theorem State.execWord_ends (w : Word32) : Ends s (s.execWord w) := by
  unfold State.execWord; split
  · exact .raise _ _ _ (by decide)
  · exact exec_ends ..

/-- A running engine's step ends as an instruction does, or in a fault before one. -/
theorem State.runStep_ends : Ends s s.runStep := by
  unfold State.runStep; split
  · exact .raise _ _ _ (by decide)
  · exact s.execWord_ends _

/-! ### Whose turn a step is -/

/-- A step with nothing pending is the engine's turn. -/
theorem step_engine (hp : s.params.legal) (hi : s.inputs = []) : step s = s.engineStep := by
  unfold step State.turn; rw [if_pos hp, hi]

/-- A step with an input pending is that input's. -/
theorem step_input (hp : s.params.legal) {i : Input} {rest : List Input} (hi : s.inputs = i :: rest) :
    step s = (s.setInputs rest).land i := by
  unfold step State.turn; rw [if_pos hp, hi]

/-- A step that answers has legal parameters, and is the engine's turn or an input's. -/
theorem step_cases {s t : State} (h : step s = .next t) :
    s.params.legal ∧ ((s.inputs = [] ∧ s.engineStep = .next t) ∨
      ∃ i rest, s.inputs = i :: rest ∧ (s.setInputs rest).land i = .next t) := by
  by_cases hp : s.params.legal
  · refine ⟨hp, ?_⟩
    cases hi : s.inputs with
    | nil => exact .inl ⟨rfl, step_engine s hp hi ▸ h⟩
    | cons i rest => exact .inr ⟨i, rest, rfl, step_input s hp hi ▸ h⟩
  · unfold step at h; rw [if_neg hp] at h; cases h

/-- The engine's turn: idle, or one step of a run. -/
theorem State.engineStep_cases {s t : State} (h : s.engineStep = .next t) :
    (s.status ≠ .running ∧ t = s) ∨ (s.status = .running ∧ s.runStep = .next t) := by
  unfold State.engineStep at h
  split at h
  · exact .inr ⟨‹_›, h⟩
  · cases h; exact .inl ⟨‹_›, rfl⟩

/-- What a host write can do to the engine, by what it names. -/
theorem State.hostWriteState_cases (r : HostReg) (v : Word) :
    s.hostWriteState r v = s ∨ s.hostWriteState r v = s.softReset ∨
      (s.status ≠ .running ∧ (s.hostWriteState r v = s.start ∨ (∃ p, s.hostWriteState r v = s.setPc p) ∨
        (∃ c, s.hostWriteState r v = s.setCrc c) ∨ (∃ q w, s.hostWriteState r v = s.setX q w) ∨
        (∃ i w, r = .imem i ∧ s.hostWriteState r v = s.setWord i w) ∨
        ∃ i b, r = .dmem i ∧ s.hostWriteState r v = s.memWrite i [b])) := by
  by_cases hs : s.status = .running
  · simp only [State.hostWriteState, hs, if_true, State.writeCtrl]
    split
    · split
      · exact .inr (.inl rfl)
      · simp
    · exact .inl rfl
  · simp only [State.hostWriteState, hs, if_false]
    cases r with
    | ctrl =>
      simp only [State.hostStore, State.writeCtrl]
      split
      · exact .inr (.inl rfl)
      · split
        · exact .inr (.inr ⟨hs, .inl rfl⟩)
        · exact .inl rfl
    | pc => exact .inr (.inr ⟨hs, .inr (.inl ⟨_, rfl⟩)⟩)
    | crc => exact .inr (.inr ⟨hs, .inr (.inr (.inl ⟨_, rfl⟩))⟩)
    | gpr q => exact .inr (.inr ⟨hs, .inr (.inr (.inr (.inl ⟨_, _, rfl⟩)))⟩)
    | imem i => exact .inr (.inr ⟨hs, .inr (.inr (.inr (.inr (.inl ⟨i, _, rfl, rfl⟩))))⟩)
    | dmem i => exact .inr (.inr ⟨hs, .inr (.inr (.inr (.inr (.inr ⟨i, _, rfl, rfl⟩))))⟩)
    | status => exact .inl rfl
    | cause => exact .inl rfl
    | epc => exact .inl rfl
    | einfo0 => exact .inl rfl
    | einfo1 => exact .inl rfl
    | unmapped => exact .inl rfl

/-- An offset that names an IMEM word or a DMEM byte names one that exists (60_exceptions.md R321). -/
theorem hostReg_inside (p : Params) (offset i : Nat) :
    (hostReg p offset = .imem i → i < p.imemWords) ∧ (hostReg p offset = .dmem i → i < p.dmemBytes) := by
  have hw : (hostWindow p offset = .imem i → i < p.imemWords) ∧ (hostWindow p offset = .dmem i → i < p.dmemBytes) := by
    unfold hostWindow
    split
    · exact ⟨nofun, nofun⟩
    · split
      · rename_i h2
        exact ⟨fun h => HostReg.imem.inj h ▸ h2.2.2, nofun⟩
      · split
        · rename_i h3
          exact ⟨nofun, fun h => HostReg.dmem.inj h ▸ h3.2⟩
        · exact ⟨nofun, nofun⟩
  unfold hostReg
  split <;> first
    | exact hw
    | exact ⟨nofun, nofun⟩

/-! ### Memories stay canonical under the shared operations -/

theorem memoriesOk_memWrite {s : State} (h : s.memoriesOk) {a : Nat} {bytes : List Byte}
    (hb : s.memCheck a bytes.length) : (s.memWrite a bytes).memoriesOk :=
  ⟨h.1, h.2.1, writeBytes_wf h.2.2.1 .., writeBytes_inside h.2.2.2 bytes hb⟩

theorem memoriesOk_setWord {s : State} (h : s.memoriesOk) {i : Nat} (hi : i < s.params.imemWords) (w : Word32) :
    (s.setWord i w).memoriesOk :=
  ⟨writeCell_wf h.1 .., writeCell_inside h.2.1 hi w, h.2.2⟩

theorem memoriesOk_powerOnReset : s.powerOnReset.memoriesOk := by
  refine ⟨?_, ?_, ?_, ?_⟩ <;> simp

end Sys2Proof.Machine
end

