-- ==== Sys2Proof/Laws/Host.lean ====
section
/-! SUPPORT. What an offset of the host's register map names (60_exceptions.md R321), said once, so that no proof about a
host access unfolds the map. -/

namespace Sys2Proof.Machine

/-- CTRL is named by its own offset only. -/
theorem hostReg_eq_ctrl (p : Params) (offset : Nat) : hostReg p offset = .ctrl ↔ offset = 0x000 := by
  unfold hostReg hostWindow
  split <;> simp_all
  repeat' split
  all_goals simp

/-- STATUS is named by its own offset only. -/
theorem hostReg_eq_status (p : Params) (offset : Nat) : hostReg p offset = .status ↔ offset = 0x008 := by
  unfold hostReg hostWindow
  split <;> simp_all
  repeat' split
  all_goals simp

/-- The row of general register i. -/
theorem hostReg_gpr (p : Params) {i : Nat} (h : i < 16) : hostReg p (0x100 + 8 * i) = .gpr (BitVec.ofNat 4 i) := by
  interval_cases i <;> simp [hostReg, hostWindow]

/-- From 0x100 on every row is a window's. -/
theorem hostReg_window (p : Params) {offset : Nat} (h : 0x100 ≤ offset) : hostReg p offset = hostWindow p offset := by
  unfold hostReg
  split <;> first | rfl | omega

/-- The row of IMEM word i. -/
theorem hostReg_imem (p : Params) {i : Nat} (h : i < p.imemWords) : hostReg p (0x10000 + 4 * i) = .imem i := by
  have hi : (0x10000 + 4 * i - 0x10000) / 4 = i := by omega
  rw [hostReg_window p (by omega), hostWindow, if_neg (by omega), if_pos (by omega), hi]

/-- The row of DMEM byte i: a legal IMEM ends before the DMEM window. -/
theorem hostReg_dmem {p : Params} (hp : p.legal) {i : Nat} (h : i < p.dmemBytes) : hostReg p (0x100000 + i) = .dmem i := by
  have hw : p.imemWords ≤ 0x3C000 := hp.2.1
  have hi : 0x100000 + i - 0x100000 = i := Nat.add_sub_cancel_left ..
  rw [hostReg_window p (by omega), hostWindow, if_neg (by omega), if_neg (by omega), if_pos (by omega), hi]

/-! ### The map against its rows -/

/-- Where a row stands, the map names something of the row's width. -/
theorem HostRow.widthOk {p : Params} (hp : p.legal) {offset bits : Nat} (h : HostRow p offset bits) (b : Nat) :
    (hostReg p offset).widthOk b = (b == bits) := by
  cases h with
  | register offset h => fin_cases h <;> rfl
  | gpr i h => rw [hostReg_gpr p h]; rfl
  | imem i h => rw [hostReg_imem p h]; rfl
  | dmem i h => rw [hostReg_dmem hp h]; rfl

/-- Where no row stands, the map names nothing. -/
theorem OtherOffset.unmapped {p : Params} {offset : Nat} (h : OtherOffset p offset) : hostReg p offset = .unmapped := by
  have hw : hostWindow p offset = .unmapped := by
    unfold hostWindow
    split
    · rename_i hc
      refine absurd ?_ (h 64)
      rw [show offset = 0x100 + 8 * ((offset - 0x100) / 8) by omega]
      exact .gpr _ (by omega)
    · split
      · rename_i hc
        refine absurd ?_ (h 32)
        rw [show offset = 0x10000 + 4 * ((offset - 0x10000) / 4) by omega]
        exact .imem _ hc.2.2
      · split
        · rename_i hc
          refine absurd ?_ (h 8)
          rw [show offset = 0x100000 + (offset - 0x100000) by omega]
          exact .dmem _ hc.2
        · rfl
  unfold hostReg
  split <;> first
    | exact hw
    | exact absurd (.register _ (by decide)) (h 64)

/-- Where the map names nothing, no row stands. -/
theorem otherOffset_of_unmapped {p : Params} (hp : p.legal) {offset : Nat} (h : hostReg p offset = .unmapped) :
    OtherOffset p offset := by
  intro bits hr
  have hw := hr.widthOk hp (bits + 1)
  rw [h] at hw
  simp [HostReg.widthOk] at hw

/-- An access of a row's own width, or at an offset without a row, is one the map takes. -/
theorem HostRow.described {p : Params} (hp : p.legal) {offset bits : Nat} (h : HostRow p offset bits ∨ OtherOffset p offset) :
    (hostReg p offset).widthOk bits = true := by
  obtain h | h := h
  · rw [h.widthOk hp]; exact beq_self_eq_true bits
  · rw [h.unmapped]; rfl

/-- A host read of a described width answers one value and changes nothing else. -/
theorem State.hostRead_spec (s : State) {bits offset : Nat} (h : (hostReg s.params offset).widthOk bits = true) :
    s.hostRead bits offset = .next (s.reply (s.hostReadValue (hostReg s.params offset))) := if_pos h

/-- A host write of a described width; `hostWriteState_cases` says what it can do. -/
theorem State.hostWrite_spec (s : State) {bits offset : Nat} (v : Word)
    (h : (hostReg s.params offset).widthOk bits = true) :
    s.hostWrite bits offset v = .next (s.hostWriteState (hostReg s.params offset) v) := if_pos h

end Sys2Proof.Machine
end

