-- ==== Sys2Proof/Laws/PerInstr.lean ====
section
/-! SUPPORT. Facts about every instruction as syntax, one lemma per constructor. Family `EncodesOpcode`: the encoder
puts the opcode of 30_encoding.md R100 into bits 31:26 (R91). -/

namespace Sys2Proof.Laws

/-- The opcode of an instruction (30_encoding.md R100). -/
def EncodesOpcode.opcode : Instr → BitVec 6
  | .add _ _ _ => 0x01
  | .sub _ _ _ => 0x02
  | .and _ _ _ => 0x03
  | .or _ _ _ => 0x04
  | .xor _ _ _ => 0x05
  | .addi _ _ _ => 0x06
  | .slli _ _ _ => 0x07
  | .srli _ _ _ => 0x08
  | .movz _ _ _ => 0x09
  | .movk _ _ _ => 0x0A
  | .lb _ _ _ => 0x10
  | .lw _ _ _ => 0x11
  | .ld _ _ _ => 0x12
  | .sb _ _ _ => 0x13
  | .sw _ _ _ => 0x14
  | .sd _ _ _ => 0x15
  | .beq _ _ _ => 0x18
  | .bne _ _ _ => 0x19
  | .bltu _ _ _ => 0x1A
  | .csrr _ _ => 0x1C
  | .csrw _ => 0x1D
  | .halt => 0x1F
  | .crci => 0x20
  | .crcb _ => 0x21
  | .crcu _ _ => 0x22
  | .crcf _ => 0x23
  | .brev32 _ _ => 0x28
  | .brev8 _ _ => 0x29
  | .clmul _ _ _ => 0x30
  | .clmulh _ _ _ => 0x31
  | .gfdiv _ _ _ => 0x32
  | .gfmod _ _ _ _ => 0x33
  | .gfmulmod _ _ _ _ _ => 0x34
  | .gfinv _ _ _ => 0x35
  | .gfdivx32 _ _ _ => 0x36
  | .forge _ _ _ => 0x38

/-- Bits 31:26 of the encoded word are the instruction's opcode. -/
def EncodesOpcode.Statement (i : Instr) : Prop := opcodeOf (encode i) = EncodesOpcode.opcode i

theorem EncodesOpcode.add (rd : RegNum) (rs1 : RegNum) (rs2 : RegNum) : EncodesOpcode.Statement (.add rd rs1 rs2) :=
  opcodeOf_formatR ..

theorem EncodesOpcode.sub (rd : RegNum) (rs1 : RegNum) (rs2 : RegNum) : EncodesOpcode.Statement (.sub rd rs1 rs2) :=
  opcodeOf_formatR ..

theorem EncodesOpcode.and (rd : RegNum) (rs1 : RegNum) (rs2 : RegNum) : EncodesOpcode.Statement (.and rd rs1 rs2) :=
  opcodeOf_formatR ..

theorem EncodesOpcode.or (rd : RegNum) (rs1 : RegNum) (rs2 : RegNum) : EncodesOpcode.Statement (.or rd rs1 rs2) :=
  opcodeOf_formatR ..

theorem EncodesOpcode.xor (rd : RegNum) (rs1 : RegNum) (rs2 : RegNum) : EncodesOpcode.Statement (.xor rd rs1 rs2) :=
  opcodeOf_formatR ..

theorem EncodesOpcode.addi (rd : RegNum) (rs1 : RegNum) (imm : BitVec 18) : EncodesOpcode.Statement (.addi rd rs1 imm) :=
  opcodeOf_formatI ..

theorem EncodesOpcode.slli (rd : RegNum) (rs1 : RegNum) (shamt : BitVec 6) : EncodesOpcode.Statement (.slli rd rs1 shamt) :=
  opcodeOf_formatI ..

theorem EncodesOpcode.srli (rd : RegNum) (rs1 : RegNum) (shamt : BitVec 6) : EncodesOpcode.Statement (.srli rd rs1 shamt) :=
  opcodeOf_formatI ..

theorem EncodesOpcode.movz (rd : RegNum) (imm16 : BitVec 16) (hw : BitVec 2) : EncodesOpcode.Statement (.movz rd imm16 hw) :=
  opcodeOf_formatM ..

theorem EncodesOpcode.movk (rd : RegNum) (imm16 : BitVec 16) (hw : BitVec 2) : EncodesOpcode.Statement (.movk rd imm16 hw) :=
  opcodeOf_formatM ..

theorem EncodesOpcode.lb (rd : RegNum) (rs1 : RegNum) (imm : BitVec 18) : EncodesOpcode.Statement (.lb rd rs1 imm) :=
  opcodeOf_formatI ..

theorem EncodesOpcode.lw (rd : RegNum) (rs1 : RegNum) (imm : BitVec 18) : EncodesOpcode.Statement (.lw rd rs1 imm) :=
  opcodeOf_formatI ..

theorem EncodesOpcode.ld (rd : RegNum) (rs1 : RegNum) (imm : BitVec 18) : EncodesOpcode.Statement (.ld rd rs1 imm) :=
  opcodeOf_formatI ..

theorem EncodesOpcode.sb (rs2 : RegNum) (rs1 : RegNum) (imm : BitVec 18) : EncodesOpcode.Statement (.sb rs2 rs1 imm) :=
  opcodeOf_formatI ..

theorem EncodesOpcode.sw (rs2 : RegNum) (rs1 : RegNum) (imm : BitVec 18) : EncodesOpcode.Statement (.sw rs2 rs1 imm) :=
  opcodeOf_formatI ..

theorem EncodesOpcode.sd (rs2 : RegNum) (rs1 : RegNum) (imm : BitVec 18) : EncodesOpcode.Statement (.sd rs2 rs1 imm) :=
  opcodeOf_formatI ..

theorem EncodesOpcode.beq (rs1 : RegNum) (rs2 : RegNum) (off : BitVec 18) : EncodesOpcode.Statement (.beq rs1 rs2 off) :=
  opcodeOf_formatI ..

theorem EncodesOpcode.bne (rs1 : RegNum) (rs2 : RegNum) (off : BitVec 18) : EncodesOpcode.Statement (.bne rs1 rs2 off) :=
  opcodeOf_formatI ..

theorem EncodesOpcode.bltu (rs1 : RegNum) (rs2 : RegNum) (off : BitVec 18) : EncodesOpcode.Statement (.bltu rs1 rs2 off) :=
  opcodeOf_formatI ..

theorem EncodesOpcode.csrr (rd : RegNum) (csr : Csr) : EncodesOpcode.Statement (.csrr rd csr) :=
  opcodeOf_formatI ..

theorem EncodesOpcode.csrw (rs1 : RegNum) : EncodesOpcode.Statement (.csrw rs1) :=
  opcodeOf_formatI ..

theorem EncodesOpcode.halt : EncodesOpcode.Statement (.halt) :=
  opcodeOf_formatN ..

theorem EncodesOpcode.crci : EncodesOpcode.Statement (.crci) :=
  opcodeOf_formatN ..

theorem EncodesOpcode.crcb (rs1 : RegNum) : EncodesOpcode.Statement (.crcb rs1) :=
  opcodeOf_formatR ..

theorem EncodesOpcode.crcu (rs1 : RegNum) (rs2 : RegNum) : EncodesOpcode.Statement (.crcu rs1 rs2) :=
  opcodeOf_formatR ..

theorem EncodesOpcode.crcf (rd : RegNum) : EncodesOpcode.Statement (.crcf rd) :=
  opcodeOf_formatR ..

theorem EncodesOpcode.brev32 (rd : RegNum) (rs1 : RegNum) : EncodesOpcode.Statement (.brev32 rd rs1) :=
  opcodeOf_formatR ..

theorem EncodesOpcode.brev8 (rd : RegNum) (rs1 : RegNum) : EncodesOpcode.Statement (.brev8 rd rs1) :=
  opcodeOf_formatR ..

theorem EncodesOpcode.clmul (rd : RegNum) (rs1 : RegNum) (rs2 : RegNum) : EncodesOpcode.Statement (.clmul rd rs1 rs2) :=
  opcodeOf_formatR ..

theorem EncodesOpcode.clmulh (rd : RegNum) (rs1 : RegNum) (rs2 : RegNum) : EncodesOpcode.Statement (.clmulh rd rs1 rs2) :=
  opcodeOf_formatR ..

theorem EncodesOpcode.gfdiv (rd : RegNum) (rs1 : RegNum) (rs2 : RegNum) : EncodesOpcode.Statement (.gfdiv rd rs1 rs2) :=
  opcodeOf_formatR ..

theorem EncodesOpcode.gfmod (rd : RegNum) (rs1 : RegNum) (rs2 : RegNum) (n : BitVec 10) : EncodesOpcode.Statement (.gfmod rd rs1 rs2 n) :=
  opcodeOf_formatR ..

theorem EncodesOpcode.gfmulmod (rd : RegNum) (rs1 : RegNum) (rs2 : RegNum) (rs3 : RegNum) (n : BitVec 10) : EncodesOpcode.Statement (.gfmulmod rd rs1 rs2 rs3 n) :=
  opcodeOf_formatR ..

theorem EncodesOpcode.gfinv (rd : RegNum) (rs1 : RegNum) (rs2 : RegNum) : EncodesOpcode.Statement (.gfinv rd rs1 rs2) :=
  opcodeOf_formatR ..

theorem EncodesOpcode.gfdivx32 (rd : RegNum) (rs1 : RegNum) (rs2 : RegNum) : EncodesOpcode.Statement (.gfdivx32 rd rs1 rs2) :=
  opcodeOf_formatR ..

theorem EncodesOpcode.forge (rd : RegNum) (rs1 : RegNum) (p : Bool) : EncodesOpcode.Statement (.forge rd rs1 p) :=
  opcodeOf_formatR ..

end Sys2Proof.Laws
end

