-- ==== Sys2Proof/Tests/Slice0.lean ====
section
/-! SUPPORT. Tests of the model's author: the smoke test of the well-formedness check, every constructor's decoding from
a word written out from its format, single steps with the values of 95_test_vectors.md (the vector's id stands in each
comment), and a witness for the hypotheses of every statement that has some. -/

namespace Sys2Proof.Tests

open Sys2Proof.Machine

/-! ### Helpers -/

/-- A running engine with 16 words and 256 bytes, everything else at reset (95_test_vectors.md, conventions). -/
def base : State := { State.reset with params := ⟨16, 256⟩, status := .running }

/-- All ones, the `A` of 95_test_vectors.md. -/
def ones : Word := 0xFFFFFFFFFFFFFFFF

/-- The generator G. -/
def g : Word := 0x104C11DB7

/-- The state an outcome answers; the state after reset when it answers none. -/
def after : Result → State
  | .next t => t
  | _ => State.reset

/-- `base` with two registers set. -/
def regs2 (r1 : RegNum) (v1 : Word) (r2 : RegNum) (v2 : Word) : State := (base.setX r1 v1).setX r2 v2

/-- The fault record with STATUS and pc. -/
def record (s : State) : RunStatus × Cause × Word32 × Word × Word × Word32 :=
  (s.status, s.cause, s.epc, s.einfo0, s.einfo1, s.pc)

/-- The characters of a text as bytes. -/
def text (s : List Char) : List Byte := s.map fun c => BitVec.ofNat 8 c.toNat

/-- `base` with the eight bytes 11 22 ... 88 at address 0 (V-SQ-7). -/
def bytes8 : State := base.memWrite 0 [0x11, 0x22, 0x33, 0x44, 0x55, 0x66, 0x77, 0x88]

/-- `base` with one word at pc. -/
def fetching (w : Word32) : State := base.setWord 0 w

/-! ### Well-formedness -/

theorem test_gfmod_65_ill_formed : (Instr.gfmod 1 2 3 65).wf = false := by decide
theorem test_gfmulmod_65_ill_formed : (Instr.gfmulmod 1 2 3 4 65).wf = false := by decide
theorem test_gfmod_64_well_formed : (Instr.gfmod 1 2 3 64).wf = true := by decide
theorem test_gfmulmod_64_well_formed : (Instr.gfmulmod 1 2 3 4 64).wf = true := by decide

/-! ### Decoding: opcode, then the fields of the format from bit 25 down (30_encoding.md R92 to R101) -/

theorem test_decode_add : decode 0b000001_0001_0010_0011_0000_0000000000 = .ok (.add 1 2 3) := by decide
theorem test_decode_sub : decode 0b000010_0001_0010_0011_0000_0000000000 = .ok (.sub 1 2 3) := by decide
theorem test_decode_and : decode 0b000011_0001_0010_0011_0000_0000000000 = .ok (.and 1 2 3) := by decide
theorem test_decode_or : decode 0b000100_0001_0010_0011_0000_0000000000 = .ok (.or 1 2 3) := by decide
theorem test_decode_xor : decode 0b000101_0001_0010_0011_0000_0000000000 = .ok (.xor 1 2 3) := by decide
theorem test_decode_addi : decode 0b000110_0001_0010_100000000000000101 = .ok (.addi 1 2 0x20005) := by decide
theorem test_decode_slli : decode 0b000111_0001_0010_000000000000_100011 = .ok (.slli 1 2 35) := by decide
theorem test_decode_srli : decode 0b001000_0001_0010_000000000000_100011 = .ok (.srli 1 2 35) := by decide
theorem test_decode_movz : decode 0b001001_0001_10_0000_0001001000110100 = .ok (.movz 1 0x1234 2) := by decide
theorem test_decode_movk : decode 0b001010_0001_10_0000_0001001000110100 = .ok (.movk 1 0x1234 2) := by decide
theorem test_decode_lb : decode 0b010000_0001_0010_100000000000000101 = .ok (.lb 1 2 0x20005) := by decide
theorem test_decode_lw : decode 0b010001_0001_0010_100000000000000101 = .ok (.lw 1 2 0x20005) := by decide
theorem test_decode_ld : decode 0b010010_0001_0010_100000000000000101 = .ok (.ld 1 2 0x20005) := by decide
theorem test_decode_sb : decode 0b010011_0001_0010_100000000000000101 = .ok (.sb 1 2 0x20005) := by decide
theorem test_decode_sw : decode 0b010100_0001_0010_100000000000000101 = .ok (.sw 1 2 0x20005) := by decide
theorem test_decode_sd : decode 0b010101_0001_0010_100000000000000101 = .ok (.sd 1 2 0x20005) := by decide
theorem test_decode_beq : decode 0b011000_0001_0010_100000000000000101 = .ok (.beq 1 2 0x20005) := by decide
theorem test_decode_bne : decode 0b011001_0001_0010_100000000000000101 = .ok (.bne 1 2 0x20005) := by decide
theorem test_decode_bltu : decode 0b011010_0001_0010_100000000000000101 = .ok (.bltu 1 2 0x20005) := by decide
theorem test_decode_csrr : decode 0b011100_0001_0000_000000_000000000011 = .ok (.csrr 1 .epc) := by decide
theorem test_decode_csrw : decode 0b011101_0000_0010_000000_000000000001 = .ok (.csrw 2) := by decide
theorem test_decode_halt : decode 0b011111_00000000000000000000000000 = .ok .halt := by decide
theorem test_decode_crci : decode 0b100000_00000000000000000000000000 = .ok .crci := by decide
theorem test_decode_crcb : decode 0b100001_0000_0010_0000_0000_0000000000 = .ok (.crcb 2) := by decide
theorem test_decode_crcu : decode 0b100010_0000_0010_0011_0000_0000000000 = .ok (.crcu 2 3) := by decide
theorem test_decode_crcf : decode 0b100011_0001_0000_0000_0000_0000000000 = .ok (.crcf 1) := by decide
theorem test_decode_brev32 : decode 0b101000_0001_0010_0000_0000_0000000000 = .ok (.brev32 1 2) := by decide
theorem test_decode_brev8 : decode 0b101001_0001_0010_0000_0000_0000000000 = .ok (.brev8 1 2) := by decide
theorem test_decode_clmul : decode 0b110000_0001_0010_0011_0000_0000000000 = .ok (.clmul 1 2 3) := by decide
theorem test_decode_clmulh : decode 0b110001_0001_0010_0011_0000_0000000000 = .ok (.clmulh 1 2 3) := by decide
theorem test_decode_gfdiv : decode 0b110010_0001_0010_0011_0000_0000000000 = .ok (.gfdiv 1 2 3) := by decide
theorem test_decode_gfmod : decode 0b110011_0001_0010_0011_0000_0001000000 = .ok (.gfmod 1 2 3 64) := by decide
theorem test_decode_gfmulmod : decode 0b110100_0001_0010_0011_0100_0000100001 = .ok (.gfmulmod 1 2 3 4 33) := by decide
theorem test_decode_gfinv : decode 0b110101_0001_0010_0011_0000_0000000000 = .ok (.gfinv 1 2 3) := by decide
theorem test_decode_gfdivx32 : decode 0b110110_0001_0010_0011_0000_0000000000 = .ok (.gfdivx32 1 2 3) := by decide
theorem test_decode_forge : decode 0b111000_0001_0010_0000_0000_0000000001 = .ok (.forge 1 2 true) := by decide

/-- V-EN-1 to V-EN-5, V-SQ-19 and V-SQ-20: illegal words, each by the case of 30_encoding.md R102 it falls under. -/
theorem test_illegal_words :
    [0x00000000, 0xFFFFFFFF, 0xCC48C041, 0xE1500002, 0x24010000, 0x70400006, 0x74040010].map
      (fun w => (decode w).toOption) = [none, none, none, none, none, none, none] := by decide

/-! ### Single instructions -/

/-- V-SQ-1. -/
theorem test_add_wraps : (after (exec (.add 1 2 3) (regs2 2 ones 3 1))).x 1 = 0 := by decide
/-- V-SQ-18: sources are read before the write. -/
theorem test_add_same_register : (after (exec (.add 2 2 2) (base.setX 2 5))).x 2 = 10 := by decide
/-- V-SQ-2. -/
theorem test_sub_wraps : (after (exec (.sub 1 2 3) (regs2 2 0 3 1))).x 1 = ones := by decide
/-- V-SQ-3. -/
theorem test_and : (after (exec (.and 1 2 3) (regs2 2 0xF0F0 3 0xFF00))).x 1 = 0xF000 := by decide
/-- V-SQ-3. -/
theorem test_or : (after (exec (.or 4 2 3) (regs2 2 0xF0F0 3 0xFF00))).x 4 = 0xFFF0 := by decide
/-- V-SQ-3. -/
theorem test_xor : (after (exec (.xor 5 2 3) (regs2 2 0xF0F0 3 0xFF00))).x 5 = 0x0FF0 := by decide
/-- V-SQ-4: the immediate is sign-extended. -/
theorem test_addi_negative : (after (exec (.addi 1 0 0x3FFFF) base)).x 1 = ones := by decide
/-- V-SQ-16: a write to r0 is discarded, and pc moves on. -/
theorem test_addi_r0 : (after (exec (.addi 0 0 5) base)).x 0 = 0 ∧ (after (exec (.addi 0 0 5) base)).pc = 1 := by decide
/-- V-SQ-5. -/
theorem test_slli : (after (exec (.slli 1 2 63) (base.setX 2 3))).x 1 = 0x8000000000000000 := by decide
/-- V-SQ-5. -/
theorem test_srli : (after (exec (.srli 3 2 1) (base.setX 2 3))).x 3 = 1 := by decide
/-- V-SQ-6. -/
theorem test_movz : (after (exec (.movz 1 0x1234 3) (base.setX 1 ones))).x 1 = 0x1234000000000000 := by decide
/-- V-SQ-6: the other lanes keep their bits. -/
theorem test_movk : (after (exec (.movk 1 0xFFFF 3) (base.setX 1 0x123400000000BEEF))).x 1 = 0xFFFF00000000BEEF := by
  decide
/-- V-SQ-7. -/
theorem test_lb : (after (exec (.lb 1 2 0) bytes8)).x 1 = 0x11 := by decide
/-- V-SQ-9: the address wraps to all ones and faults; rd is not written. -/
theorem test_lb_faults : record (after (exec (.lb 1 0 0x3FFFF) base)) = (.faulted, .addrFault, 0, ones, 1, 0) := by decide
/-- V-SQ-7: unaligned and big-endian. -/
theorem test_lw_unaligned : (after (exec (.lw 3 2 1) bytes8)).x 3 = 0x22334455 := by decide
/-- V-SQ-10. -/
theorem test_lw_faults : record (after (exec (.lw 1 0 253) base)) = (.faulted, .addrFault, 0, 0xFD, 4, 0) := by decide
/-- V-SQ-7. -/
theorem test_ld : (after (exec (.ld 4 2 0) bytes8)).x 4 = 0x1122334455667788 := by decide
/-- V-SQ-17: A + 1 wraps to address 0. -/
theorem test_ld_wraps : (after (exec (.ld 1 2 1) (bytes8.setX 2 ones))).x 1 = 0x1122334455667788 := by decide
/-- Program P3, step 20: the low byte alone is stored. -/
theorem test_sb : ((after (exec (.sb 13 6 13) (regs2 13 0x1EC 6 16))).memRead 29 1) = [0xEC] := by decide
/-- V-SQ-11: the last four bytes, most significant first. -/
theorem test_sw : (after (exec (.sw 2 0 252) (base.setX 2 0xAABBCCDD))).memRead 252 4 = [0xAA, 0xBB, 0xCC, 0xDD] := by
  decide
/-- V-SQ-11, one byte further: nothing is stored (20_memory.md R64). -/
theorem test_sw_faults :
    record (after (exec (.sw 2 0 253) base)) = (.faulted, .addrFault, 0, 253, 4, 0) ∧
      (after (exec (.sw 2 0 253) base)).dmem = [] := by decide
/-- V-SQ-8. -/
theorem test_sd : (after (exec (.sd 2 0 8) (base.setX 2 0x0123456789ABCDEF))).memRead 8 8 =
    [0x01, 0x23, 0x45, 0x67, 0x89, 0xAB, 0xCD, 0xEF] := by decide
/-- V-SQ-15: the target 0 - 1 wraps modulo 2^32. -/
theorem test_beq_taken : (after (exec (.beq 0 0 0x3FFFF) base)).pc = 0xFFFFFFFF := by decide
/-- Program P3, step 25: not taken. -/
theorem test_beq_not_taken : (after (exec (.beq 15 4 2) (regs2 15 0xB64354A0 4 0xC1446436))).pc = 1 := by decide
/-- 45_sequencer.md R262: the whole 64 bits are compared. -/
theorem test_bne_high_bit : (after (exec (.bne 1 2 2) (regs2 1 0x8000000000000000 2 0))).pc = 2 := by decide
/-- V-SQ-12: unsigned. -/
theorem test_bltu_unsigned : (after (exec (.bltu 2 3 2) (regs2 2 1 3 ones))).pc = 2 := by decide
/-- V-SQ-12, operands exchanged. -/
theorem test_bltu_not_taken : (after (exec (.bltu 3 2 2) (regs2 2 1 3 ones))).pc = 1 := by decide
/-- V-SQ-14: CRC after reset. -/
theorem test_csrr_crc : (after (exec (.csrr 1 .crc) base)).x 1 = 0xFFFFFFFF := by decide
/-- Program P4, step 1. -/
theorem test_csrr_poly : (after (exec (.csrr 2 .poly) base)).x 2 = g := by decide
/-- V-SQ-14: the low 32 bits. -/
theorem test_csrw : (after (exec (.csrw 2) (base.setX 2 0xFFFFFFFF12345678))).crc = 0x12345678 := by decide
/-- V-SQ-21: pc points past the HALT. -/
theorem test_halt : record (after (exec .halt base)) = (.halted, .none, 0, 0, 0, 1) := by decide
/-- V-CRC-25. -/
theorem test_crci : (after (exec .crci (base.setCrc 0x12345678))).crc = 0xFFFFFFFF := by decide
/-- V-CRC-12. -/
theorem test_crcb : (after (exec (.crcb 4) (base.setX 4 0x31))).crc = 0x7C231048 := by decide
/-- V-CRC-18: only bits 7:0 are used. -/
theorem test_crcb_low_byte : (after (exec (.crcb 4) (base.setX 4 0x1234))).crc = 0x0C49E4C7 := by decide
/-- V-CRC-6: the standard check value. -/
theorem test_crcu_check_value :
    (after (exec (.crcu 0 2) ((base.memWrite 0 (text ['1', '2', '3', '4', '5', '6', '7', '8', '9'])).setX 2 9))).crc =
      0x340BC6D9 := by decide +kernel
/-- V-CRC-22: a + n does not wrap. -/
theorem test_crcu_faults : record (after (exec (.crcu 1 2) (regs2 1 ones 2 2))) = (.faulted, .addrFault, 0, ones, 2, 0) := by
  decide
/-- V-CRC-23. -/
theorem test_crcf : (after (exec (.crcf 1) (base.setCrc 0x340BC6D9))).x 1 = 0xCBF43926 := by decide
/-- V-BR-6: bits 63:32 are ignored. -/
theorem test_brev32 : (after (exec (.brev32 1 2) (base.setX 2 0xFFFFFFFF00000001))).x 1 = 0x80000000 := by decide +kernel
/-- V-BR-4. -/
theorem test_brev32_order : (after (exec (.brev32 1 2) (base.setX 2 0x12345678))).x 1 = 0x1E6A2C48 := by decide +kernel
/-- V-BR-6: all eight lanes. -/
theorem test_brev8 : (after (exec (.brev8 1 2) (base.setX 2 0xFFFFFFFF00000001))).x 1 = 0xFFFFFFFF00000080 := by
  decide +kernel
/-- V-BR-4. -/
theorem test_brev8_order : (after (exec (.brev8 1 2) (base.setX 2 0x12345678))).x 1 = 0x482C6A1E := by decide +kernel
/-- V-GF-5. -/
theorem test_clmul : (after (exec (.clmul 1 2 3) (regs2 2 ones 3 ones))).x 1 = 0x5555555555555555 := by decide +kernel
/-- V-GF-10. -/
theorem test_clmul_small : (after (exec (.clmul 1 2 3) (regs2 2 0x1234 3 0x5678))).x 1 = 0x5C58160 := by decide +kernel
/-- V-GF-6. -/
theorem test_clmulh_top :
    (after (exec (.clmulh 1 2 3) (regs2 2 0x8000000000000000 3 0x8000000000000000))).x 1 = 0x4000000000000000 := by
  decide +kernel
/-- V-GF-8. -/
theorem test_clmulh : (after (exec (.clmulh 1 2 3) (regs2 2 g 3 0x100000000))).x 1 = 1 := by decide +kernel
/-- V-GF-11: divisor 0. -/
theorem test_gfdiv_by_zero : (after (exec (.gfdiv 1 2 3) (regs2 2 0x1234 3 0))).x 1 = 0 := by decide +kernel
/-- V-GF-19. -/
theorem test_gfdiv : (after (exec (.gfdiv 1 2 3) (regs2 2 ones 3 g))).x 1 = 0xFC4F00B5 := by decide +kernel
/-- V-GF-12: divisor 0 leaves the dividend, masked. -/
theorem test_gfmod_by_zero : (after (exec (.gfmod 1 2 3 8) (regs2 2 0x1234 3 0))).x 1 = 0x34 := by decide +kernel
/-- V-GF-19. -/
theorem test_gfmod : (after (exec (.gfmod 1 2 3 64) (regs2 2 ones 3 g))).x 1 = 0x38FB2284 := by decide +kernel
/-- V-GF-26: the full 127-bit product is reduced. -/
theorem test_gfmulmod : (after (exec (.gfmulmod 1 2 2 3 32) (regs2 2 ones 3 g))).x 1 = 0x37DEBB54 := by decide +kernel
/-- V-GF-27: modulus 0. -/
theorem test_gfmulmod_zero : (after (exec (.gfmulmod 1 2 2 3 8) (regs2 2 ones 3 0))).x 1 = 0x55 := by decide +kernel
/-- V-GF-40. -/
theorem test_gfinv : (after (exec (.gfinv 1 2 3) (regs2 2 0x100000000 3 g))).x 1 = 0xCBF1ACDA := by decide +kernel
/-- V-GF-36. -/
theorem test_gfinv_domain : record (after (exec (.gfinv 1 2 3) (regs2 2 2 3 2))) = (.faulted, .domainError, 0, 2, 2, 0) := by
  decide +kernel
/-- V-GF-49. -/
theorem test_gfdivx32 : (after (exec (.gfdivx32 1 2 3) (regs2 2 0x1234 3 g))).x 1 = 0xE2B49F35 := by decide +kernel
/-- V-GF-55. -/
theorem test_gfdivx32_domain :
    record (after (exec (.gfdivx32 1 2 3) (regs2 2 5 3 0x104C11DB6))) =
      (.faulted, .domainError, 0, 0x100000000, 0x104C11DB6, 0) := by decide +kernel

/-- The engine of V-FG-1 before its FORGE; V-FG-12's high half of x[4]. -/
def forging : State := (base.setX 4 0xFFFFFFFFC1446436).setCrc 0xAEEFD1D1

/-- V-FG-1 and V-FG-12. -/
theorem test_forge : (after (exec (.forge 5 4 false) forging)).x 5 = 0x444459B4 ∧
    (after (exec (.forge 5 4 false) forging)).crc = 0x3EBB9BC9 := by decide +kernel
/-- V-FG-2: with the padding marker. -/
theorem test_forge_padding : (after (exec (.forge 5 4 true) forging)).x 5 = 0xCF0E38ED := by decide +kernel

/-! ### Steps, host and resets -/

/-- V-EN-4: an illegal word faults with the word in EINFO0. -/
theorem test_step_illegal :
    record (after (step (fetching 0xE1500002))) = (.faulted, .illegalInstruction, 0, 0xE1500002, 0, 0) := by decide
/-- V-SQ-13: a pc beyond IMEM faults at the fetch. -/
theorem test_step_fetch_fault : record (after (step (base.setPc 16))) = (.faulted, .fetchFault, 16, 16, 0, 16) := by decide
/-- V-SQ-22: START clears the fault record but keeps EPC and pc. -/
theorem test_start_after_fault :
    record (after (step ((base.takeFault .addrFault 300 1).setInputs [.write 64 0 1]))) = (.running, .none, 0, 0, 0, 0) := by
  decide
/-- 60_exceptions.md R325: RESET wins over START. -/
theorem test_reset_wins : (after (step (base.setInputs [.write 64 0 3]))).status = .idle := by decide
/-- 60_exceptions.md R324: while the engine runs, PC reads 0 and STATUS reads 1. -/
theorem test_host_reads_running :
    (after (step ((base.setPc 7).setInputs [.read 64 0x010]))).replies = [0] ∧
      (after (step ((base.setPc 7).setInputs [.read 64 0x008]))).replies = [1] := by decide
/-- The word `withFetchWord` places is the one the very next step runs, from reset. -/
theorem test_withFetchWord_halt : (after (step (State.reset.withFetchWord 32 0x7C000000))).status = .halted := by decide
/-- An opcode-table word (its bits numbered from the least significant) and the decoder's answer. -/
theorem test_decodeTableWord : decodeTableWord 32 0x0448C000 = some (.add 1 2 3) ∧ decodeTableWord 32 0 = none := by decide

/-! ### Assembler (program P4 of 95_test_vectors.md, and 30_encoding.md R112) -/

/-- Lines of programs P1, P3 and P4, with a label. -/
theorem test_assemble :
    assemble ["loop: lb r4, 0(r1)", "crcb r4", "addi r1, r1, 1 ; next", "bltu r1, r2, loop", "GFMULMOD r4, r1, R3, r2, 32"]
      = some [0x41040000, 0x84100000, 0x18440001, 0x684BFFFD, 0xD104C820] := by decide +kernel
/-- `li` of a constant with lane 1 zero, `nop`, and an immediate that does not fit. -/
theorem test_assemble_pseudo :
    assemble ["li r1, 0x100000000", "nop"] = some [0x24400000, 0x28600001, 0x04000000] ∧
      assemble ["addi r1, r0, 0x20000"] = none := by decide +kernel

/-! ### Witnesses: a state and operands that meet the hypotheses of each statement that has some -/

theorem witness_DecodeOfEncodeIsTheInstruction : (Instr.gfmulmod 15 15 15 15 64).WellFormed := by decide
theorem witness_EncodeOfDecodeIsTheWord : decode 0xE3FC0001 = .ok (.forge 15 15 true) := by decide

/-- `base` meets EngineDue; the states below are `base` with something written. -/
theorem base_due : EngineDue base := ⟨by decide, rfl, rfl⟩

theorem witness_IllegalWordsFaultAndOthersExecute_illegal :
    EngineDue (fetching 0x00000000) ∧ (fetching 0).pc.toNat < (fetching 0).params.imemWords ∧
      (fetching 0).word (fetching 0).pc.toNat = 0 ∧ IllegalWord 0 :=
  ⟨⟨by decide, rfl, rfl⟩, by decide, by decide, .inl (by decide)⟩

/-- n = 64, the last legal mask width. -/
theorem witness_IllegalWordsFaultAndOthersExecute_legal :
    EngineDue (fetching 0xCC48C040) ∧ (fetching 0xCC48C040).pc.toNat < (fetching 0xCC48C040).params.imemWords ∧
      (fetching 0xCC48C040).word (fetching 0xCC48C040).pc.toNat = 0xCC48C040 ∧ ¬ IllegalWord 0xCC48C040 := by
  refine ⟨⟨by decide, rfl, rfl⟩, by decide, by decide, ?_⟩
  rintro (h | h | h | h | h)
  · exact absurd h (by decide)
  · refine h (fun i hi hj => ?_)
    have : i = 10 ∨ i = 11 ∨ i = 12 ∨ i = 13 := by omega
    rcases this with rfl | rfl | rfl | rfl <;> decide
  · exact absurd h.2 (by decide)
  · exact absurd h.1 (by decide)
  · exact absurd h.1 (by decide)

theorem witness_StepRunsTheDecodedInstruction :
    (fetching 0x7C000000).params.legal ∧ (fetching 0x7C000000).status = .running ∧
      (fetching 0x7C000000).pc.toNat < (fetching 0x7C000000).params.imemWords ∧
      decode ((fetching 0x7C000000).word (fetching 0x7C000000).pc.toNat) = .ok .halt ∧
      (fetching 0x7C000000).inputs = [] := by decide
theorem witness_StepRunsTheDecodedInstruction_turn :
    let s := (fetching 0x7C000000).setInputs [.engineTurn, .powerOn]
    s.params.legal ∧ s.status = .running ∧ s.pc.toNat < s.params.imemWords ∧
      decode (s.word s.pc.toNat) = .ok .halt ∧ s.inputs = .engineTurn :: [.powerOn] := by decide
/-- The first pc outside IMEM. -/
theorem witness_FetchBeyondImemFaults :
    EngineDue (base.setPc 16) ∧ (base.setPc 16).params.imemWords ≤ (base.setPc 16).pc.toNat :=
  ⟨⟨by decide, rfl, rfl⟩, by decide⟩
theorem witness_IdleEngineKeepsItsState :
    State.reset.params.legal ∧ State.reset.inputs = [] ∧ State.reset.status ≠ .running := by decide

/-- Words with every operand bit set, one for each encoding clause: `w &&& mask = match`. -/
theorem witness_IntegerRegisterInstructions :
    ([(0x07FFC000, 0x04000000), (0x0BFFC000, 0x08000000), (0x0FFFC000, 0x0C000000), (0x13FFC000, 0x10000000),
      (0x17FFC000, 0x14000000)] : List (Word32 × Word32)).all (fun p => p.1 &&& 0xFC003FFF == p.2) := by decide +kernel
theorem witness_IntegerImmediateInstructions :
    (0x1BFFFFFF : Word32) &&& 0xFC000000 = 0x18000000 ∧ (0x1FFC003F : Word32) &&& 0xFC03FFC0 = 0x1C000000 ∧
      (0x23FC003F : Word32) &&& 0xFC03FFC0 = 0x20000000 ∧ (0x1C000040 : Word32) &&& 0xFC000000 = 0x1C000000 ∧
      ¬ bitsZero 0x1C000040 6 12 :=
  ⟨by decide, by decide, by decide, by decide, fun h => absurd (h 6 (by decide) (by decide)) (by decide)⟩
/-- Lane 3: bit 63 lies in the lane and bit 47 outside it. -/
theorem witness_MoveWideInstructions :
    (0x27F0FFFF : Word32) &&& 0xFC0F0000 = 0x24000000 ∧ (0x2BF0FFFF : Word32) &&& 0xFC0F0000 = 0x28000000 ∧
      63 / 16 = (3 : BitVec 2).toNat ∧ 47 / 16 ≠ (3 : BitVec 2).toNat := by decide

/-- The last address inside DMEM and the first outside it, for each width. -/
theorem witness_LoadInstructions :
    (([(0x43FFFFFF, 0x40000000), (0x47FFFFFF, 0x44000000), (0x4BFFFFFF, 0x48000000)] : List (Word32 × Word32)).all
      (fun p => p.1 &&& 0xFC000000 == p.2)) ∧
    ∀ n ∈ [1, 4, 8], (base.ea 0 (BitVec.ofNat 18 (256 - n))).toNat + n ≤ base.params.dmemBytes ∧
      ¬ (base.ea 0 (BitVec.ofNat 18 (257 - n))).toNat + n ≤ base.params.dmemBytes := by decide +kernel
theorem witness_StoreInstructions :
    (([(0x4FFFFFFF, 0x4C000000), (0x53FFFFFF, 0x50000000), (0x57FFFFFF, 0x54000000)] : List (Word32 × Word32)).all
      (fun p => p.1 &&& 0xFC000000 == p.2)) ∧
    ∀ n ∈ [1, 4, 8], (base.ea 0 (BitVec.ofNat 18 (256 - n))).toNat + n ≤ base.params.dmemBytes ∧
      ¬ (base.ea 0 (BitVec.ofNat 18 (257 - n))).toNat + n ≤ base.params.dmemBytes := by decide +kernel
/-- The last doubleword of DMEM. -/
theorem witness_MixedWidthAccessesAgree :
    (248 = (base.ea 0 248).toNat ∧ 248 + 8 ≤ base.params.dmemBytes ∧ (base.ea 0 252).toNat = 248 + 4) ∧
      ∃ t, exec (.sd 2 0 248) base = .next t := ⟨by decide, _, rfl⟩
theorem witness_BranchInstructions :
    (([(0x63FFFFFF, 0x60000000), (0x67FFFFFF, 0x64000000), (0x6BFFFFFF, 0x68000000)] : List (Word32 × Word32)).all
      (fun p => p.1 &&& 0xFC000000 == p.2)) ∧
    (base.x 1).toNat = (base.x 2).toNat ∧ ((base.setX 1 ones).x 1).toNat ≠ ((base.setX 1 ones).x 2).toNat ∧
      ¬ (base.x 1).toNat < (base.x 2).toNat ∧ ((base.setX 2 1).x 1).toNat < ((base.setX 2 1).x 2).toNat := by decide +kernel
/-- V-SQ-13: the first index outside IMEM as the target. -/
theorem witness_BranchOutOfImemFaultsAtTheNextStep :
    let s := fetching 0x60000010
    EngineDue s ∧ s.pc.toNat < s.params.imemWords ∧ decode (s.word s.pc.toNat) = .ok (.beq 0 0 16) ∧
      s.params.imemWords ≤ (BitVec.ofInt 32 (s.pc.toNat + (16 : BitVec 18).toInt)).toNat :=
  ⟨⟨by decide, rfl, rfl⟩, by decide, by decide, by decide⟩
/-- 0x000, 0x006 and 0x015 stand beside assigned numbers and are not assigned. -/
theorem witness_CsrrReadsEveryAssignedRegister :
    ([0x73C00000, 0x73C00006, 0x73C00015] : List Word32).all
      (fun w => w &&& 0xFC3FF000 == 0x70000000 && !assignedCsrs.contains (w.extractLsb' 0 12).toNat) ∧
    ([0x70000001, 0x70000002, 0x70000003, 0x70000004, 0x70000005, 0x70000010, 0x70000011, 0x70000012, 0x70000013,
      0x70000014] : List Word32).all (fun w => (w ||| 0x03C00000) &&& 0xFC3FFFFF == w) := by decide +kernel
/-- Each cause is that of some state; FETCH_FAULT to VERIFY_FAILED are codes 1 to 5 (60_exceptions.md R302). -/
theorem witness_CsrrReadsEveryAssignedRegister_causes :
    [base.cause, (base.takeFault .fetchFault 0 0).cause, (base.takeFault .illegalInstruction 0 0).cause,
      (base.takeFault .addrFault 0 0).cause, (base.takeFault .domainError 0 0).cause,
      (base.takeFault .verifyFailed 0 0).cause] =
      [.none, .fetchFault, .illegalInstruction, .addrFault, .domainError, .verifyFailed] := by decide
theorem witness_CsrwWritesCrcOnly :
    (0x743C0001 : Word32) &&& 0xFFC3FFFF = 0x74000001 ∧ (0x74000010 : Word32) &&& 0xFC000000 = 0x74000000 ∧
      (0x74000010 : Word32).extractLsb' 0 12 ≠ (0x001 : BitVec 12) := by decide
theorem witness_HaltEndsTheRun :
    (0x7C000000 : Word32) &&& 0xFC000000 = 0x7C000000 ∧ (0x7C000001 : Word32) &&& 0xFC000000 = 0x7C000000 ∧
      (0x7C000001 : Word32) ≠ 0x7C000000 := by decide
theorem witness_CrcRegisterInstructions :
    (0x80000000 : Word32) &&& 0xFFFFFFFF = 0x80000000 ∧ (0x80000001 : Word32) &&& 0xFC000000 = 0x80000000 ∧
      (0x80000001 : Word32) ≠ 0x80000000 ∧ (0x843C0000 : Word32) &&& 0xFFC3FFFF = 0x84000000 ∧
      (0x8FC00000 : Word32) &&& 0xFC3FFFFF = 0x8C000000 := by decide
/-- The empty range beyond DMEM, the last byte of DMEM, and one byte past it. -/
theorem witness_CrcuScansTheRangeOrFaults :
    (0x883FC000 : Word32) &&& 0xFFC03FFF = 0x88000000 ∧
    ((regs2 1 257 2 0).x 2).toNat = 0 ∧
    ((regs2 1 255 2 1).x 1).toNat + ((regs2 1 255 2 1).x 2).toNat ≤ base.params.dmemBytes ∧
    ¬ (((regs2 1 256 2 1).x 2).toNat = 0 ∨
      ((regs2 1 256 2 1).x 1).toNat + ((regs2 1 256 2 1).x 2).toNat ≤ base.params.dmemBytes) := by decide

/-- Ranges 250 to 252 and 253 to 255, and both together. -/
def scans : State := ((((base.setX 1 250).setX 2 3).setX 3 253).setX 4 3).setX 5 6

theorem witness_ScansOfAdjacentRangesCompose :
    ((scans.x 3).toNat = (scans.x 1).toNat + (scans.x 2).toNat ∧ (scans.x 5).toNat = (scans.x 2).toNat + (scans.x 4).toNat ∧
      (scans.x 1).toNat + (scans.x 5).toNat ≤ scans.params.dmemBytes) ∧
    ∃ t u, exec (.crcu 1 2) scans = .next t ∧ exec (.crcu 3 4) t = .next u := ⟨by decide, _, _, rfl, rfl⟩
theorem witness_CrcIsLinear :
    (text ['a', 'b']).length = (text ['c', 'd']).length ∧ ([0x44, 0x44, 0x59, 0xB4] : List Byte).length = 4 := by decide
theorem witness_ReflectionInstructions :
    (0xA3FC0000 : Word32) &&& 0xFC03FFFF = 0xA0000000 ∧ (0xA7FC0000 : Word32) &&& 0xFC03FFFF = 0xA4000000 := by decide
/-- A palindromic word and one that is not. -/
theorem witness_ReflectionLaws : bswap32 0x12343412 = 0x12343412 ∧ bswap32 0x12345678 ≠ 0x12345678 := by decide
theorem witness_CarrylessProductLaws : 2 ^ 64 - 1 < 2 ^ 64 ∧ 2 ^ 64 - 1 ≠ 0 := by decide
theorem witness_CarrylessMultiplyInstructions :
    (0xC3FFC000 : Word32) &&& 0xFC003FFF = 0xC0000000 ∧ (0xC7FFC000 : Word32) &&& 0xFC003FFF = 0xC4000000 := by decide
/-- V-GF-14: 5 = 1 * 7 XOR 2. -/
theorem witness_DivisionWithRemainder : 7 ≠ 0 ∧ clmul 1 7 ^^^ 2 = 5 ∧ deg 2 < deg 7 := by decide +kernel
/-- V-GF-24's remainder needs 48 bits; a mask as wide as the divisor's degree, and no wider. -/
theorem witness_MaskedDivisionIdentityCondition :
    ¬ bitLength (prem 0xABCDEF123456 0x1000000000001) ≤ 32 ∧ bitLength (prem 0xABCDEF123456 0x1000000000001) ≤ 48 ∧
      deg 0x1000000000001 ≤ 48 := by decide +kernel
/-- n = 64 and n = 65. -/
theorem witness_DivideAndReduceInstructions :
    (0xCBFFC000 : Word32) &&& 0xFC003FFF = 0xC8000000 ∧
    ((0xCFFFC040 : Word32) &&& 0xFC003C00 = 0xCC000000 ∧ ((0xCFFFC040 : Word32).extractLsb' 0 10).toNat ≤ 64) ∧
    ((0xD3FFFC40 : Word32) &&& 0xFC000000 = 0xD0000000 ∧ ((0xD3FFFC40 : Word32).extractLsb' 0 10).toNat ≤ 64) ∧
    ((0xCC000041 : Word32) &&& 0xFC000000 = 0xCC000000 ∧ 64 < ((0xCC000041 : Word32).extractLsb' 0 10).toNat) ∧
    ((0xD0000041 : Word32) &&& 0xFC000000 = 0xD0000000 ∧ 64 < ((0xD0000041 : Word32).extractLsb' 0 10).toNat) ∧
    (64 : BitVec 10).toNat ≤ 64 := by decide
/-- V-GF-37: deg(m) = 1; V-GF-34: deg(m) = 0. -/
theorem witness_ReturnedInverseIsAnInverse : pinv 3 2 = some 1 ∧ 1 ≤ deg 2 ∧ pinv 5 1 = some 0 := by decide +kernel
/-- V-GF-36: no inverse; V-GF-34: deg(a) >= 1. -/
theorem witness_InverseIsFoundExactlyWhenThereIsOne : pinv 2 2 = none ∧ pinv 3 2 ≠ none ∧ 1 ≤ deg 5 := by decide +kernel
/-- V-GF-55, V-GF-49, and V-GF-56 for the smallest odd modulus. -/
theorem witness_DivisionByX32Law : pdivx32 5 0x104C11DB6 = none ∧ pdivx32 0x1234 0x104C11DB7 = some 0xE2B49F35 ∧
    (1 % 2 = 1 ∧ prem (clmul 0 (2 ^ 32)) 1 = prem 5 1 ∧ deg 0 < deg 1) := by decide +kernel
theorem witness_ModularInverseInstruction :
    (0xD7FFC000 : Word32) &&& 0xFC003FFF = 0xD4000000 ∧
    pinv ((regs2 2 0x100000000 3 g).x 2).toNat ((regs2 2 0x100000000 3 g).x 3).toNat = some 0xCBF1ACDA ∧
    pinv (base.x 2).toNat (base.x 3).toNat = none := by decide +kernel
theorem witness_DivideByX32Instruction :
    (0xDBFFC000 : Word32) &&& 0xFC003FFF = 0xD8000000 ∧ ((base.setX 3 1).x 3).toNat % 2 = 1 ∧ (base.x 3).toNat % 2 ≠ 1 := by
  decide
theorem witness_ResultsFitTheirWidths :
    2 ^ 64 - 1 < 2 ^ 64 ∧ pinv 0x8000000000000000 (2 ^ 64 - 1) = some 2 ∧ 1 ≤ deg (2 ^ 64 - 1) ∧ pinv 5 1 = some 0 ∧
      deg 1 < 1 ∧ pdivx32 5 3 = some 0 ∧ 3 ≠ 0 := by decide +kernel
theorem witness_ForgeInstructionReturnsAVerifiedPatch : (0xE3FC0001 : Word32) &&& 0xFC03FFFE = 0xE0000000 := by decide
theorem witness_PatchIsTheOnlyFourBytes : ([0x44, 0x44, 0x59, 0xB4] : List Byte).length = 4 := by decide

theorem witness_StepKeepsMemoriesOk :
    (fetching 0x4C000005).memoriesOk ∧ ∃ t, step (fetching 0x4C000005) = .next t := ⟨by decide, _, rfl⟩
theorem witness_StepKeepsRecordOk :
    (fetching 0x00000000).recordOk ∧ ∃ t, step (fetching 0x00000000) = .next t := ⟨by decide, _, rfl⟩
theorem witness_FaultsArePrecise :
    base.status = .running ∧ ∃ t, exec (.lb 1 0 256) base = .next t ∧ t.status = .faulted := ⟨rfl, _, rfl, rfl⟩
theorem witness_OnlyHaltEndsARunNormally :
    EngineDue (fetching 0x7C000000) ∧ ∃ t, step (fetching 0x7C000000) = .next t ∧ t.status = .halted :=
  ⟨⟨by decide, rfl, rfl⟩, _, rfl, rfl⟩
theorem witness_OnlyCrcInstructionsChangeCrc : ∃ t, exec (.csrw 1) base = .next t ∧ t.crc ≠ base.crc :=
  ⟨_, rfl, by decide⟩
theorem witness_OnlyStoresChangeDmemAndNothingChangesImem :
    ∃ t, exec (.sb 2 0 0) bytes8 = .next t ∧ ¬ SameBytes bytes8 t :=
  ⟨_, rfl, fun h => absurd (h 0) (by decide)⟩
/-- One state for each of the three places: the next index, a branch's target, a fault. -/
theorem witness_AtMostOneRegisterAndThreePlacesForPc :
    (∃ t, exec (.add 1 2 3) base = .next t ∧ t.pc = base.pc + 1) ∧
      (∃ t, exec (.bltu 0 1 5) (base.setX 1 1) = .next t ∧ t.pc = 5) ∧
      ∃ t, exec (.lb 1 0 256) base = .next t ∧ t.pc = base.pc ∧ t.status = .faulted :=
  ⟨⟨_, rfl, rfl⟩, ⟨_, rfl, rfl⟩, ⟨_, rfl, rfl, rfl⟩⟩
theorem witness_CauseReadsZeroDuringARun : base.recordOk ∧ base.status = .running := by decide

theorem reset_legal : State.reset.params.legal := by decide

theorem witness_StartRunsAStoppedEngine_start :
    WriteDue (State.reset.setInputs [.write 64 0 1]) 64 0 1 [] ∧ (1 : Word).getLsbD 1 = false ∧ (1 : Word).getLsbD 0 = true ∧
      (State.reset.setInputs [.write 64 0 1]).status ≠ .running := ⟨⟨by decide, rfl⟩, by decide, by decide, by decide⟩
theorem witness_StartRunsAStoppedEngine_running :
    WriteDue (base.setInputs [.write 64 0 1]) 64 0 1 [] ∧ (base.setInputs [.write 64 0 1]).status = .running :=
  ⟨⟨by decide, rfl⟩, rfl⟩
theorem witness_StartRunsAStoppedEngine_none :
    WriteDue (State.reset.setInputs [.write 64 0 4]) 64 0 4 [] ∧ (4 : Word).getLsbD 1 = false ∧
      (4 : Word).getLsbD 0 = false := ⟨⟨by decide, rfl⟩, by decide, by decide⟩
/-- STATUS, another register, and an offset without a row, read while the engine runs. -/
theorem witness_HostAccessWhileTheEngineRuns_reads :
    base.status = .running ∧ HostRow base.params 0x008 64 ∧ HostRow base.params 0x010 64 ∧ OtherOffset base.params 0x040 ∧
      ReadDue (base.setInputs [.read 64 0x008]) 64 0x008 [] ∧ ReadDue (base.setInputs [.read 64 0x010]) 64 0x010 [] ∧
      ReadDue (base.setInputs [.read 64 0x040]) 64 0x040 [] :=
  ⟨rfl, .register _ (by decide), .register _ (by decide), otherOffset_of_unmapped (by decide) (by decide),
    ⟨by decide, rfl⟩, ⟨by decide, rfl⟩, ⟨by decide, rfl⟩⟩
/-- RESET, START, and a write to another register, while the engine runs. -/
theorem witness_HostAccessWhileTheEngineRuns_writes :
    WriteDue (base.setInputs [.write 64 0 2]) 64 0 2 [] ∧ (2 : Word).getLsbD 1 = true ∧
      WriteDue (base.setInputs [.write 64 0 1]) 64 0 1 [] ∧ (1 : Word).getLsbD 1 = false ∧
      WriteDue (base.setInputs [.write 64 0x010 2]) 64 0x010 2 [] ∧ (0x010 : Nat) ≠ 0 :=
  ⟨⟨by decide, rfl⟩, by decide, ⟨by decide, rfl⟩, by decide, ⟨by decide, rfl⟩, by decide⟩
/-- A stopped engine with a read due at each kind of row: a register, the last GPR, the last word, the last byte, none. -/
theorem witness_HostReadsOfAStoppedEngine :
    State.reset.status ≠ .running ∧
    (∀ p ∈ ([(64, 0x000), (64, 0x008), (64, 0x038), (64, 0x100 + 8 * 15), (32, 0x10000 + 4 * 4095), (8, 0x100000 + 65535),
        (64, 0x100000 + 65536)] : List (Nat × Nat)), ReadDue (State.reset.setInputs [.read p.1 p.2]) p.1 p.2 []) ∧
    OtherOffset State.reset.params (0x100000 + 65536) ∧ OtherOffset State.reset.params 0x040 ∧
    OtherOffset State.reset.params 0x004 :=
  ⟨by decide, fun _ _ => ⟨reset_legal, rfl⟩, otherOffset_of_unmapped reset_legal (by decide),
    otherOffset_of_unmapped reset_legal (by decide), otherOffset_of_unmapped reset_legal (by decide)⟩
/-- The three values of STATUS of a stopped engine, and a faulted one with a read of CAUSE due. -/
theorem witness_HostReadsOfAStoppedEngine_status :
    State.reset.status = .idle ∧ (State.reset.setStatus .halted).status = .halted ∧
      (State.reset.takeFault .verifyFailed 0 0).status = .faulted ∧
      (State.reset.takeFault .verifyFailed 0 0).cause = .verifyFailed ∧
      ReadDue ((State.reset.takeFault .verifyFailed 0 0).setInputs [.read 64 0x018]) 64 0x018 [] :=
  ⟨rfl, rfl, rfl, rfl, ⟨reset_legal, rfl⟩⟩
theorem witness_HostWritesToAStoppedEngine :
    State.reset.status ≠ .running ∧
    (∀ p ∈ ([(64, 0x010), (64, 0x038), (64, 0x100), (64, 0x100 + 8 * 15), (32, 0x10000 + 4 * 4095),
        (8, 0x100000 + 65535), (64, 0x008), (64, 0x030), (64, 0x180)] : List (Nat × Nat)),
      WriteDue (State.reset.setInputs [.write p.1 p.2 1]) p.1 p.2 1 []) ∧
    OtherOffset State.reset.params 0x180 :=
  ⟨by decide, fun _ _ => ⟨reset_legal, rfl⟩, otherOffset_of_unmapped reset_legal (by decide)⟩
/-- A register, the last GPR, the last IMEM word and the last DMEM byte, each with a width next to its own. -/
theorem witness_HostAccessOfAnotherWidthIsRefused :
    (∀ p ∈ ([(32, 0x038), (128, 0x100 + 8 * 15), (16, 0x10000 + 4 * 15), (64, 0x10000 + 4 * 15),
        (16, 0x100000 + 255)] : List (Nat × Nat)),
      ReadDue (base.setInputs [.read p.1 p.2]) p.1 p.2 [] ∧ WriteDue (base.setInputs [.write p.1 p.2 1]) p.1 p.2 1 []) ∧
    15 < base.params.imemWords ∧ 255 < base.params.dmemBytes :=
  ⟨fun _ _ => ⟨⟨base_due.legal, rfl⟩, ⟨base_due.legal, rfl⟩⟩, by decide, by decide⟩
/-- RESET of a running and of a stopped engine. -/
theorem witness_SoftResetKeepsTheMemories :
    WriteDue (base.setInputs [.write 64 0 3]) 64 0 3 [] ∧ WriteDue (State.reset.setInputs [.write 64 0 2]) 64 0 2 [] ∧
      (3 : Word).getLsbD 1 = true ∧ (2 : Word).getLsbD 1 = true := ⟨⟨by decide, rfl⟩, ⟨by decide, rfl⟩, by decide, by decide⟩
theorem witness_PowerOnResetForgetsTheMemories :
    (base.setInputs [.powerOn]).params.legal ∧ (base.setInputs [.powerOn]).inputs = .powerOn :: [] := by decide
/-- The last word of IMEM. -/
theorem witness_HostLoadedWordIsExecutedAfterStart :
    let s := (State.reset.setPc 4095).setInputs [.write 32 (0x10000 + 4 * 4095) 0x7C000000, .write 64 0 1]
    s.params.legal ∧ s.status ≠ .running ∧ s.pc.toNat < s.params.imemWords ∧
      s.inputs = [.write 32 (0x10000 + 4 * s.pc.toNat) 0x7C000000, .write 64 0 1] ∧ (1 : Word).getLsbD 0 = true ∧
      (1 : Word).getLsbD 1 = false ∧ decode ((0x7C000000 : Word).setWidth 32) = .ok .halt := by decide

end Sys2Proof.Tests
end

section
/-! The engine state of 10_state.md: what every step keeps of STATUS and the fault record, which instructions write CRC,
and where an instruction can leave the registers and pc. -/

namespace Sys2Proof.Machine

variable {s t : State}

/-! ### STATUS and the fault record under the shared operations -/

/-- The agreement of STATUS and the fault record reads nothing else of the state. -/
theorem State.recordOk_of_same (hs : s.recordOk) (hstatus : t.status = s.status) (hrecord : SameRecord s t) :
    t.recordOk := by
  simpa only [State.recordOk, hstatus, hrecord.cause, hrecord.einfo0, hrecord.einfo1] using hs

/-- Without a fault and without a cause, EINFO0 = EINFO1 = 0 is all that is asked (10_state.md R36, R37). -/
theorem State.recordOk_of_no_cause (hstatus : s.status ≠ .faulted) (hcause : s.cause = .none) (h0 : s.einfo0 = 0)
    (h1 : s.einfo1 = 0) : s.recordOk :=
  ⟨⟨fun h => absurd h hstatus, fun h => absurd hcause h⟩, fun _ => ⟨h0, h1⟩⟩

/-- A state that is not faulted has an empty record (10_state.md R36, R37). -/
theorem State.record_of_not_faulted (hs : s.recordOk) (hstatus : s.status ≠ .faulted) :
    s.cause = .none ∧ s.einfo0 = 0 ∧ s.einfo1 = 0 := by
  obtain ⟨hiff, hinfo⟩ := hs
  have hcause : s.cause = .none := by_contra fun h => hstatus (hiff.mpr h)
  exact ⟨hcause, hinfo hcause⟩

/-- Fault entry with a cause: FAULTED and the cause are written together (60_exceptions.md R301). -/
theorem FaultEntry.recordOk {c : Cause} {e0 e1 : Word} (h : FaultEntry s t c e0 e1) (hc : c ≠ .none) : t.recordOk :=
  ⟨⟨fun _ => h.cause ▸ hc, fun _ => h.status⟩, fun hn => absurd (h.cause.symm.trans hn) hc⟩

/-- What an ending does to STATUS and the fault record: nothing, HALTED alone, or fault entry with a cause. -/
theorem Ends.status_cases {r : Result} (h : Ends s r) (ht : r = .next t) :
    (t.status = s.status ∧ SameRecord s t) ∨ (t.status = .halted ∧ SameRecord s t) ∨
      ∃ c e0 e1, c ≠ .none ∧ FaultEntry s t c e0 e1 := by
  cases h with
  | finish | crc | store | forge => cases ht; exact .inl ⟨rfl, rfl, rfl, rfl, rfl⟩
  | branch taken off =>
    obtain ⟨u, hu, hres⟩ := s.branch_spec taken off
    cases hu.symm.trans ht
    exact .inl ⟨hres.status, hres.record⟩
  | halt => cases ht; exact .inr (.inl ⟨rfl, rfl, rfl, rfl, rfl⟩)
  | raise c e0 e1 hc =>
    obtain ⟨u, hu, hres⟩ := s.raise_spec c e0 e1
    cases hu.symm.trans ht
    exact .inr (.inr ⟨c, e0, e1, hc, hres⟩)

/-- The engine's turn keeps the agreement; HALT needs that only a running engine executes it (45_sequencer.md R269). -/
theorem State.engineStep_keeps_recordOk (hs : s.recordOk) (h : s.engineStep = .next t) : t.recordOk := by
  obtain ⟨_, rfl⟩ | ⟨hrun, hstep⟩ := State.engineStep_cases h
  · exact hs
  obtain ⟨hstatus, hrecord⟩ | ⟨hhalt, hrecord⟩ | ⟨c, e0, e1, hc, hfault⟩ := s.runStep_ends.status_cases hstep
  · exact State.recordOk_of_same hs hstatus hrecord
  · obtain ⟨hcause, h0, h1⟩ := State.record_of_not_faulted hs (by simp [hrun])
    exact State.recordOk_of_no_cause (by simp [hhalt]) (hrecord.cause.trans hcause) (hrecord.einfo0.trans h0)
      (hrecord.einfo1.trans h1)
  · exact hfault.recordOk hc

/-! ### STATUS and the fault record under the host and the platform -/

/-- A host read that is answered only adds a reply (60_exceptions.md R323, R324). -/
theorem State.hostRead_cases {bits offset : Nat} (h : s.hostRead bits offset = .next t) : ∃ v, t = s.reply v := by
  simp only [State.hostRead] at h
  split at h
  · cases h; exact ⟨_, rfl⟩
  · cases h

/-- A host write that is answered is one to what its offset names (60_exceptions.md R321). -/
theorem State.hostWrite_cases {bits offset : Nat} {v : Word} (h : s.hostWrite bits offset v = .next t) :
    t = s.hostWriteState (hostReg s.params offset) v := by
  simp only [State.hostWrite] at h
  split at h
  · cases h; rfl
  · cases h

/-- The host writes neither CAUSE, EINFO0 nor EINFO1; START and RESET clear them as they leave FAULTED (60_exceptions.md
R322, R325). -/
theorem State.hostWriteState_keeps_recordOk (hs : s.recordOk) (r : HostReg) (v : Word) :
    (s.hostWriteState r v).recordOk := by
  obtain he | he | ⟨_, he | ⟨_, he⟩ | ⟨_, he⟩ | ⟨_, _, he⟩ | ⟨_, _, _, he⟩ | ⟨_, _, _, he⟩⟩ :=
    s.hostWriteState_cases r v <;> rw [he]
  case inl => exact hs
  case inr.inl => exact State.recordOk_of_no_cause nofun rfl rfl rfl
  case inr.inr.inl => exact State.recordOk_of_no_cause nofun rfl rfl rfl
  all_goals exact State.recordOk_of_same hs rfl ⟨rfl, rfl, rfl, rfl⟩

/-- Whatever is due next keeps the agreement of STATUS and the fault record. -/
theorem State.land_keeps_recordOk {i : Input} (hs : s.recordOk) (h : s.land i = .next t) : t.recordOk := by
  cases i with
  | engineTurn => exact State.engineStep_keeps_recordOk hs h
  | read bits offset =>
    obtain ⟨v, rfl⟩ := State.hostRead_cases h
    exact State.recordOk_of_same hs rfl ⟨rfl, rfl, rfl, rfl⟩
  | write bits offset v =>
    rw [State.hostWrite_cases h]
    exact State.hostWriteState_keeps_recordOk hs ..
  | powerOn =>
    cases h
    exact State.recordOk_of_no_cause nofun rfl rfl rfl

/-- Settles O44: the step is the engine's turn or an input's, and each keeps the agreement. -/
theorem stepKeepsRecordOk : Obligations.StepKeepsRecordOk := by
  intro s t hs hstep
  obtain ⟨_, ⟨_, hengine⟩ | ⟨i, rest, _, hland⟩⟩ := step_cases hstep
  · exact State.engineStep_keeps_recordOk hs hengine
  · have hs' : (s.setInputs rest).recordOk := State.recordOk_of_same hs rfl ⟨rfl, rfl, rfl, rfl⟩
    exact State.land_keeps_recordOk hs' hland

/-! ### What an instruction did, by the instruction it was

`Ends` forgets which instruction ended that way; `ExecResult` keeps it where a statement asks for it. -/

/-- The instructions that write CRC (10_state.md R34). -/
inductive WritesCrc : Instr → Prop
  | crci : WritesCrc .crci
  | crcb (rs1 : RegNum) : WritesCrc (.crcb rs1)
  | crcu (rs1 rs2 : RegNum) : WritesCrc (.crcu rs1 rs2)
  | forge (rd rs1 : RegNum) (p : Bool) : WritesCrc (.forge rd rs1 p)
  | csrw (rs1 : RegNum) : WritesCrc (.csrw rs1)

/-- The instructions that store to DMEM (20_memory.md R61). -/
inductive IsStore : Instr → Prop
  | sb (rs2 rs1 : RegNum) (imm : BitVec 18) : IsStore (.sb rs2 rs1 imm)
  | sw (rs2 rs1 : RegNum) (imm : BitVec 18) : IsStore (.sw rs2 rs1 imm)
  | sd (rs2 rs1 : RegNum) (imm : BitVec 18) : IsStore (.sd rs2 rs1 imm)

/-- The branches, each with its own offset (45_sequencer.md R260). -/
inductive IsBranch : Instr → BitVec 18 → Prop
  | beq (rs1 rs2 : RegNum) (off : BitVec 18) : IsBranch (.beq rs1 rs2 off) off
  | bne (rs1 rs2 : RegNum) (off : BitVec 18) : IsBranch (.bne rs1 rs2 off) off
  | bltu (rs1 rs2 : RegNum) (off : BitVec 18) : IsBranch (.bltu rs1 rs2 off) off

/-- `t` is what instruction `i` left of `s`: one of these effects, the middle ones by the instructions named only. -/
inductive ExecResult (s t : State) (i : Instr) : Prop
  | reg (rd : RegNum) (v : Word) (h : RegResult s t rd v)
  | crc (hi : WritesCrc i) (c : Word32) (h : CrcResult s t c)
  | store (hi : IsStore i) (a : Nat) (stored : List Byte) (h : StoreResult s t a stored)
  | branch (off : BitVec 18) (hi : IsBranch i off) (taken : Bool)
      (h : PcResult s t (if taken then s.target off else s.pc + 1))
  | halt (hi : i = .halt) (h : t = (s.setStatus .halted).advance)
  | forge (hi : WritesCrc i) (rd : RegNum) (v : Word) (c : Word32) (h : t = ((s.setX rd v).setCrc c).advance)
  | fault (c : Cause) (e0 e1 : Word) (hc : c ≠ .none) (h : FaultEntry s t c e0 e1)

/-! Each shared operation, as the effect it stands for. -/

theorem State.finish_result {i : Instr} {rd : RegNum} {v : Word} (h : s.finish rd v = .next t) : ExecResult s t i := by
  obtain ⟨u, hu, hres⟩ := s.finish_spec rd v
  cases hu.symm.trans h
  exact .reg rd v hres

theorem State.finishCrc_result {i : Instr} (hi : WritesCrc i) {c : Word32} (h : s.finishCrc c = .next t) :
    ExecResult s t i := by
  obtain ⟨u, hu, hres⟩ := s.finishCrc_spec c
  cases hu.symm.trans h
  exact .crc hi c hres

theorem State.branch_result {i : Instr} {off : BitVec 18} (hi : IsBranch i off) {taken : Bool}
    (h : s.branch taken off = .next t) : ExecResult s t i := by
  obtain ⟨u, hu, hres⟩ := s.branch_spec taken off
  cases hu.symm.trans h
  exact .branch off hi taken hres

theorem State.raise_result {i : Instr} {c : Cause} {e0 e1 : Word} (hc : c ≠ .none) (h : s.raise c e0 e1 = .next t) :
    ExecResult s t i := by
  obtain ⟨u, hu, hres⟩ := s.raise_spec c e0 e1
  cases hu.symm.trans h
  exact .fault c e0 e1 hc hres

theorem State.load_result {i : Instr} {n : Nat} {rd : RegNum} {ea : Word} (h : s.load n rd ea = .next t) :
    ExecResult s t i := by
  by_cases hm : s.memCheck ea.toNat n
  · exact State.finish_result (s.load_inside hm rd ▸ h)
  · exact State.raise_result (by decide) (s.load_outside hm rd ▸ h)

theorem State.store_result {i : Instr} (hi : IsStore i) {n : Nat} {v ea : Word} (h : s.store n v ea = .next t) :
    ExecResult s t i := by
  by_cases hm : s.memCheck ea.toNat n
  · obtain ⟨u, hu, hres⟩ := s.store_inside hm v
    cases hu.symm.trans h
    exact .store hi _ _ hres
  · exact State.raise_result (by decide) (s.store_outside hm v ▸ h)

/-- The inversion of `exec`: what each instruction can do to the state, said once over all 36. -/
theorem exec_result {i : Instr} (h : exec i s = .next t) : ExecResult s t i := by
  cases i with
  | add | sub | and | or | xor | addi | slli | srli | movz | movk | csrr | crcf | brev32 | brev8 | clmul | clmulh | gfdiv
  | gfmod | gfmulmod => exact State.finish_result h
  | lb | lw | ld => exact State.load_result h
  | sb => exact State.store_result (.sb ..) h
  | sw => exact State.store_result (.sw ..) h
  | sd => exact State.store_result (.sd ..) h
  | beq => exact State.branch_result (.beq ..) h
  | bne => exact State.branch_result (.bne ..) h
  | bltu => exact State.branch_result (.bltu ..) h
  | halt => cases h; exact .halt rfl rfl
  | crci => exact State.finishCrc_result .crci h
  | crcb => exact State.finishCrc_result (.crcb ..) h
  | csrw => exact State.finishCrc_result (.csrw ..) h
  | crcu =>
    simp only [exec, execCrcu] at h
    split at h
    · exact State.finishCrc_result (.crcu ..) h
    · exact State.raise_result (by decide) h
  | gfinv =>
    simp only [exec, execGfinv] at h
    split at h
    · exact State.raise_result (by decide) h
    · exact State.finish_result h
  | gfdivx32 =>
    simp only [exec, execGfdivx32] at h
    split at h
    · exact State.raise_result (by decide) h
    · exact State.finish_result h
  | forge =>
    simp only [exec, execForge] at h
    split at h
    · cases h; exact .forge (.forge ..) _ _ _ rfl
    · exact State.raise_result (by decide) h

/-! ### CRC (10_state.md R34) -/

/-- An instruction that does not write CRC leaves it unchanged. -/
theorem ExecResult.crc_eq {i : Instr} (h : ExecResult s t i) (hi : ¬ WritesCrc i) : t.crc = s.crc := by
  cases h with
  | reg _ _ h => exact h.crc
  | crc hw => exact absurd hw hi
  | store _ _ _ h => exact h.crc
  | branch _ _ _ h => exact h.crc
  | halt _ h => rw [h]; rfl
  | forge hw => exact absurd hw hi
  | fault _ _ _ _ h => exact h.crc

/-- Settles O49: a changed CRC is the work of an instruction that writes CRC, by `exec_result`. -/
theorem onlyCrcInstructionsChangeCrc : Obligations.OnlyCrcInstructionsChangeCrc := by
  intro i s t hexec hne
  have hw : WritesCrc i := by_contra fun hi => hne ((exec_result hexec).crc_eq hi)
  cases hw with
  | crci => exact .inl rfl
  | crcb r => exact .inr (.inl ⟨r, rfl⟩)
  | crcu a n => exact .inr (.inr (.inl ⟨a, n, rfl⟩))
  | forge rd rs1 p => exact .inr (.inr (.inr (.inl ⟨rd, rs1, p, rfl⟩)))
  | csrw r => exact .inr (.inr (.inr (.inr ⟨r, rfl⟩)))

/-! ### General registers and pc (10_state.md R31, R42, 45_sequencer.md R260, R264) -/

/-- No register written is a write to r0, which is discarded (10_state.md R32). -/
theorem SameRegs.wroteReg_zero (h : SameRegs s t) (v : Word) : WroteReg s t 0 v := by
  intro r
  rw [if_neg fun hr => hr.2 hr.1, h r]

/-- An instruction writes at most one general register. -/
theorem ExecResult.wroteReg {i : Instr} (h : ExecResult s t i) : ∃ rd v, WroteReg s t rd v := by
  cases h with
  | reg rd v h => exact ⟨rd, v, h.regs⟩
  | crc _ _ h => exact ⟨0, 0, h.regs.wroteReg_zero 0⟩
  | store _ _ _ h => exact ⟨0, 0, h.regs.wroteReg_zero 0⟩
  | branch _ _ _ h => exact ⟨0, 0, h.regs.wroteReg_zero 0⟩
  | halt _ h => exact ⟨0, 0, SameRegs.wroteReg_zero (fun r => by simp [h]) 0⟩
  | forge _ rd v _ h => exact ⟨rd, v, fun r => by simp [h]⟩
  | fault _ _ _ _ h => exact ⟨0, 0, h.regs.wroteReg_zero 0⟩

/-- A fault's entry is told by the record it leaves. -/
theorem FaultEntry.of_record {c : Cause} {e0 e1 : Word} (h : FaultEntry s t c e0 e1) :
    FaultEntry s t t.cause t.einfo0 t.einfo1 := by
  rwa [h.cause, h.einfo0, h.einfo1]

/-- The three places an instruction leaves pc: the next index, a branch's own target, or where it was in a fault. -/
theorem ExecResult.pc_cases {i : Instr} (h : ExecResult s t i) :
    t.pc = s.pc + 1 ∨ (∃ off, IsBranch i off ∧ t.pc = s.target off) ∨ FaultEntry s t t.cause t.einfo0 t.einfo1 := by
  cases h with
  | reg _ _ h => exact .inl h.pc
  | crc _ _ h => exact .inl h.pc
  | store _ _ _ h => exact .inl h.pc
  | branch off hi taken h =>
    cases taken with
    | true => exact .inr (.inl ⟨off, hi, h.pc⟩)
    | false => exact .inl h.pc
  | halt _ h => exact .inl (by simp [h])
  | forge _ _ _ _ h => exact .inl (by simp [h])
  | fault _ _ _ _ h => exact .inr (.inr h.of_record)

/-- A branch target in integers: `trunc_32(pc + off)` with a signed offset (45_sequencer.md R260). -/
theorem State.target_eq_ofInt (s : State) (off : BitVec 18) :
    s.target off = BitVec.ofInt 32 (s.pc.toNat + off.toInt) := by
  rw [BitVec.ofInt_add, BitVec.ofInt_natCast, BitVec.ofNat_toNat, BitVec.setWidth_eq]
  rfl

/-- Settles O51: both halves are read off `exec_result`, the branch's target put in integers. -/
theorem atMostOneRegisterAndThreePlacesForPc : Obligations.AtMostOneRegisterAndThreePlacesForPc := by
  intro i s t hexec
  have hres := exec_result hexec
  refine ⟨hres.wroteReg, ?_⟩
  obtain hnext | ⟨off, hi, hpc⟩ | hfault := hres.pc_cases
  · exact .inl hnext
  · have htarget := s.target_eq_ofInt off
    refine .inr (.inl ?_)
    cases hi with
    | beq rs1 rs2 => exact ⟨rs1, rs2, off, .inl rfl, hpc, htarget⟩
    | bne rs1 rs2 => exact ⟨rs1, rs2, off, .inr (.inl rfl), hpc, htarget⟩
    | bltu rs1 rs2 => exact ⟨rs1, rs2, off, .inr (.inr rfl), hpc, htarget⟩
  · exact .inr (.inr hfault)

end Sys2Proof.Machine
end

section
/-! The memories of 20_memory.md: what every step keeps of their canonical form, which instructions write them, how loads
and scans see what stores left, and how a word the host loads comes to be executed. -/

namespace Sys2Proof.Machine

variable {s t : State}

/-! ### Both memories stay canonical and inside their sizes (20_memory.md R60, R61, R68) -/

/-- The canonical form reads the parameters and the two memories, and nothing else of the state. -/
theorem State.memoriesOk_of_same (hs : s.memoriesOk) (hparams : t.params = s.params) (himem : t.imem = s.imem)
    (hdmem : t.dmem = s.dmem) : t.memoriesOk := by
  simpa only [State.memoriesOk, hparams, himem, hdmem] using hs

/-- Of the endings only a store writes a memory, and it writes DMEM inside its size. -/
theorem Ends.keeps_memoriesOk {r : Result} (h : Ends s r) (hs : s.memoriesOk) (ht : r = .next t) : t.memoriesOk := by
  cases h with
  | finish | crc | halt | forge | raise => cases ht; exact State.memoriesOk_of_same hs rfl rfl rfl
  | branch taken =>
    cases taken
    all_goals cases ht; exact State.memoriesOk_of_same hs rfl rfl rfl
  | store a bytes hinside =>
    cases ht
    exact State.memoriesOk_of_same (memoriesOk_memWrite hs hinside) rfl rfl rfl

/-- The engine's turn keeps the canonical form. -/
theorem State.engineStep_keeps_memoriesOk (hs : s.memoriesOk) (h : s.engineStep = .next t) : t.memoriesOk := by
  obtain ⟨_, rfl⟩ | ⟨_, hstep⟩ := State.engineStep_cases h
  · exact hs
  · exact s.runStep_ends.keeps_memoriesOk hs hstep

/-- A host write keeps the canonical form: an offset names only cells that exist (60_exceptions.md R321). -/
theorem State.hostWriteState_keeps_memoriesOk (hs : s.memoriesOk) (offset : Nat) (v : Word) :
    (s.hostWriteState (hostReg s.params offset) v).memoriesOk := by
  obtain he | he | ⟨_, he | ⟨_, he⟩ | ⟨_, he⟩ | ⟨_, _, he⟩ | ⟨i, w, hr, he⟩ | ⟨i, b, hr, he⟩⟩ :=
    s.hostWriteState_cases (hostReg s.params offset) v <;> rw [he]
  case inr.inr.inr.inr.inr.inr.inl =>
    exact memoriesOk_setWord hs ((hostReg_inside s.params offset i).1 hr) w
  case inr.inr.inr.inr.inr.inr.inr =>
    exact memoriesOk_memWrite hs (.inr ((hostReg_inside s.params offset i).2 hr))
  all_goals exact State.memoriesOk_of_same hs rfl rfl rfl

/-- Whatever is due next keeps the canonical form; a power-on reset forgets every cell. -/
theorem State.land_keeps_memoriesOk {i : Input} (hs : s.memoriesOk) (h : s.land i = .next t) : t.memoriesOk := by
  cases i with
  | engineTurn => exact State.engineStep_keeps_memoriesOk hs h
  | read bits offset =>
    obtain ⟨v, rfl⟩ := State.hostRead_cases h
    exact State.memoriesOk_of_same hs rfl rfl rfl
  | write bits offset v =>
    rw [State.hostWrite_cases h]
    exact State.hostWriteState_keeps_memoriesOk hs offset v
  | powerOn =>
    cases h
    exact memoriesOk_powerOnReset s

/-- Settles O43: the step is the engine's turn or an input's, and each keeps the canonical form. -/
theorem stepKeepsMemoriesOk : Obligations.StepKeepsMemoriesOk := by
  intro s t hs hstep
  obtain ⟨_, ⟨_, hengine⟩ | ⟨i, rest, _, hland⟩⟩ := step_cases hstep
  · exact State.engineStep_keeps_memoriesOk hs hengine
  · have hs' : (s.setInputs rest).memoriesOk := State.memoriesOk_of_same hs rfl rfl rfl
    exact State.land_keeps_memoriesOk hs' hland

/-! ### Which instructions write a memory (20_memory.md R60, R61) -/

/-- No instruction changes IMEM, the parameters or the host's side. -/
theorem ExecResult.sameOutside {i : Instr} (h : ExecResult s t i) : SameOutside s t := by
  cases h with
  | reg _ _ h => exact h.outside
  | crc _ _ h => exact h.outside
  | store _ _ _ h => exact h.outside
  | branch _ _ _ h => exact h.outside
  | halt _ h => rw [h]; exact ⟨rfl, fun _ => rfl, rfl, rfl, rfl⟩
  | forge _ _ _ _ h => rw [h]; exact ⟨rfl, fun _ => rfl, rfl, rfl, rfl⟩
  | fault _ _ _ _ h => exact h.outside

/-- An instruction that is no store leaves every byte of DMEM as it was. -/
theorem ExecResult.sameBytes {i : Instr} (h : ExecResult s t i) (hi : ¬ IsStore i) : SameBytes s t := by
  cases h with
  | reg _ _ h => exact h.bytes
  | crc _ _ h => exact h.bytes
  | store hstore => exact absurd hstore hi
  | branch _ _ _ h => exact h.bytes
  | halt _ h => rw [h]; exact fun _ => rfl
  | forge _ _ _ _ h => rw [h]; exact fun _ => rfl
  | fault _ _ _ _ h => exact h.bytes

/-- Settles O50: both halves are read off `exec_result`. -/
theorem onlyStoresChangeDmemAndNothingChangesImem : Obligations.OnlyStoresChangeDmemAndNothingChangesImem := by
  intro i s t hexec
  have hres := exec_result hexec
  refine ⟨hres.sameOutside, fun hne => ?_⟩
  have hstore : IsStore i := by_contra fun hi => hne (hres.sameBytes hi)
  cases hstore with
  | sb rs2 rs1 imm => exact .inl ⟨rs2, rs1, imm, rfl⟩
  | sw rs2 rs1 imm => exact .inr (.inl ⟨rs2, rs1, imm, rfl⟩)
  | sd rs2 rs1 imm => exact .inr (.inr ⟨rs2, rs1, imm, rfl⟩)

/-! ### A load of part of what was stored (20_memory.md R63 to R65) -/

/-- The first bytes of a big-endian encoding are those of the value's upper part. -/
theorem beBytes_add (m n v : Nat) : beBytes (m + n) v = beBytes m (v >>> (8 * n)) ++ beBytes n v := by
  induction m with
  | zero => simp [beBytes]
  | succ m ih =>
    rw [Nat.succ_add, beBytes, ih, beBytes, List.cons_append, ← Nat.shiftRight_add, ← Nat.mul_add, Nat.add_comm n m]

/-- A read inside a stored run reads the stored bytes. -/
theorem StoreResult.memRead_eq {a : Nat} {before bytes behind : List Byte}
    (h : StoreResult s t a (before ++ (bytes ++ behind))) : t.memRead (a + before.length) bytes.length = bytes := by
  refine List.ext_getElem (t.memRead_length ..) fun i hi hi' => ?_
  have hstored : (before ++ (bytes ++ behind))[before.length + i]? = some bytes[i] := by
    rw [List.getElem?_append_right (Nat.le_add_right ..), Nat.add_sub_cancel_left, List.getElem?_append_left hi',
      List.getElem?_eq_getElem hi']
  have hread := t.memRead_getElem? (a + before.length) bytes.length i hi'
  rw [Nat.add_assoc, h.inside _ _ hstored, List.getElem?_eq_getElem hi] at hread
  exact Option.some.inj hread

/-- The big-endian value of the n bytes above the low m ones is that bit field of the word. -/
theorem ofNat_beU_beBytes (v : Word) (m n : Nat) :
    BitVec.ofNat 64 (beU (beBytes n (v.toNat >>> (8 * m)))) = (v.extractLsb' (8 * m) (8 * n)).setWidth 64 := by
  refine BitVec.eq_of_toNat_eq ?_
  rw [BitVec.toNat_ofNat, beU_beBytes, BitVec.toNat_setWidth, BitVec.extractLsb'_toNat, pow_mul]
  norm_num

/-- After a store of k + n + m bytes of `v`, the load of the n bytes that have k before them and m behind them gives
their bit field of `v`. -/
theorem StoreResult.load {a k n m : Nat} {v ea : Word} (h : StoreResult s t a (beBytes (k + (n + m)) v.toNat))
    (hea : ea.toNat = a + k) (hinside : a + k + n ≤ s.params.dmemBytes) (rd : RegNum) :
    ∃ u, t.load n rd ea = .next u ∧ RegResult t u rd ((v.extractLsb' (8 * m) (8 * n)).setWidth 64) := by
  have hcheck : t.memCheck ea.toNat n := .inr (by rw [hea, h.outside.params]; exact hinside)
  have hread : t.memRead (a + k) n = beBytes n (v.toNat >>> (8 * m)) := by
    rw [beBytes_add, beBytes_add n m] at h
    simpa using h.memRead_eq
  rw [t.load_inside hcheck, hea, hread, ofNat_beU_beBytes]
  exact t.finish_spec rd _

/-- An effective address is a matter of the registers. -/
theorem SameRegs.ea_eq (h : SameRegs s t) (rs1 : RegNum) (imm : BitVec 18) : t.ea rs1 imm = s.ea rs1 imm := by
  rw [State.ea, h rs1, State.ea]

/-- Settles O14: SD stores the eight bytes of v, and each load reads some of them. -/
theorem mixedWidthAccessesAgree : Obligations.MixedWidthAccessesAgree := by
  intro s t rs2 rs1 rd imm a ha hinside hexec
  obtain ⟨t', ht', hstore⟩ := s.store_inside (n := 8) (ea := s.ea rs1 imm) (.inr (ha ▸ hinside)) (s.x rs2)
  cases ht'.symm.trans hexec
  rw [← ha] at hstore
  have hea (imm' : BitVec 18) : t.ea rs1 imm' = s.ea rs1 imm' := hstore.regs.ea_eq rs1 imm'
  have hbase : (t.ea rs1 imm).toNat = a + 0 := by rw [hea, ha]; rfl
  refine ⟨?_, ?_, ?_, fun imm4 h4 => ?_⟩
  · exact StoreResult.load (k := 0) (n := 4) (m := 4) hstore hbase (by omega) rd
  · exact StoreResult.load (k := 0) (n := 1) (m := 7) hstore hbase (by omega) rd
  · obtain ⟨u, hu, hres⟩ := StoreResult.load (k := 0) (n := 8) (m := 0) hstore hbase (by omega) rd
    exact ⟨u, hu, by simpa using hres⟩
  · exact StoreResult.load (k := 4) (n := 4) (m := 0) hstore ((congrArg _ (hea imm4)).trans h4) (by omega) rd

/-! ### A scan of two adjacent ranges (20_memory.md R75, 42_crc32.md R161) -/

/-- Feeding u ++ v is feeding u and then v. -/
theorem crcBytes_append (c : Word32) (u v : List Byte) : crcBytes c (u ++ v) = crcBytes (crcBytes c u) v := by
  induction u generalizing c with
  | nil => rfl
  | cons b rest ih => exact ih (crcByte c b)

/-- CRCU over a range inside DMEM feeds its bytes to CRC and does nothing else (42_crc32.md R167). -/
theorem exec_crcu_inside {r1 r2 : RegNum} (h : s.memCheck (s.x r1).toNat (s.x r2).toNat) :
    ∃ t, exec (.crcu r1 r2) s = .next t ∧
      CrcResult s t (crcBytes s.crc (s.memRead (s.x r1).toNat (s.x r2).toNat)) := by
  rw [show exec (.crcu r1 r2) s = s.finishCrc _ from if_pos h]
  exact s.finishCrc_spec _

/-- Settles O23: the bytes of the whole range are those of the first followed by those of the second, which the first scan
left as they were. -/
theorem scansOfAdjacentRangesCompose : Obligations.ScansOfAdjacentRangesCompose := by
  intro s t u r1 r2 r3 r4 r5 hstart hlen hinside ht hu
  obtain ⟨_, ht', hfirst⟩ := exec_crcu_inside (s := s) (r1 := r1) (r2 := r2) (.inr (by omega))
  cases ht'.symm.trans ht
  have hcheck : t.memCheck (t.x r3).toNat (t.x r4).toNat :=
    .inr (by rw [hfirst.regs r3, hfirst.regs r4, hfirst.outside.params]; omega)
  obtain ⟨_, hu', hsecond⟩ := exec_crcu_inside hcheck
  cases hu'.symm.trans hu
  obtain ⟨v, hv, hwhole⟩ := exec_crcu_inside (s := s) (r1 := r1) (r2 := r5) (.inr hinside)
  refine ⟨v, hv, ?_, hwhole.pc.trans hfirst.pc.symm⟩
  have hbytes (a n : Nat) : t.memRead a n = s.memRead a n := State.memRead_congr fun i _ => hfirst.bytes (a + i)
  rw [hwhole.crc, hsecond.crc, hfirst.crc, hfirst.regs r3, hfirst.regs r4, hbytes, hstart, hlen, State.memRead_add,
    crcBytes_append]

/-! ### A word the host loads (20_memory.md R70, R73, 60_exceptions.md R322, R323) -/

/-- A host write that is due, of the width of what its offset names, lands. -/
theorem WriteDue.step_eq {bits offset : Nat} {v : Word} {rest : List Input} {r : HostReg}
    (h : WriteDue s bits offset v rest) (hr : hostReg s.params offset = r) (hwidth : r.widthOk bits = true) :
    step s = .next ((s.setInputs rest).hostWriteState r v) := by
  subst hr
  rw [step_input s h.legal h.due]
  exact (s.setInputs rest).hostWrite_spec v hwidth

/-- While the engine is stopped a host write reaches what its offset names. -/
theorem WriteDue.step_eq_hostStore {bits offset : Nat} {v : Word} {rest : List Input} {r : HostReg}
    (h : WriteDue s bits offset v rest) (hr : hostReg s.params offset = r) (hwidth : r.widthOk bits = true)
    (hstopped : s.status ≠ .running) : step s = .next ((s.setInputs rest).hostStore r v) :=
  (h.step_eq hr hwidth).trans (congrArg _ (if_neg hstopped))

/-- A host write to an IMEM word of a stopped engine stores its low 32 bits. -/
theorem WriteDue.step_imem {i : Nat} {w : Word} {rest : List Input} (h : WriteDue s 32 (0x10000 + 4 * i) w rest)
    (hstopped : s.status ≠ .running) (hi : i < s.params.imemWords) :
    step s = .next ((s.setInputs rest).setWord i (w.setWidth 32)) :=
  h.step_eq_hostStore (hostReg_imem s.params hi) rfl hstopped

/-- START without RESET starts a stopped engine. -/
theorem WriteDue.step_start {v : Word} {rest : List Input} (h : WriteDue s 64 0 v rest)
    (hstopped : s.status ≠ .running) (hstart : v.getLsbD 0 = true) (hreset : v.getLsbD 1 = false) :
    step s = .next (s.setInputs rest).start := by
  have hctrl : (s.setInputs rest).writeCtrl v = (s.setInputs rest).start := by
    rw [State.writeCtrl, if_neg (by rw [hreset]; decide), if_pos ⟨hstart, hstopped⟩]
  rw [h.step_eq_hostStore ((hostReg_eq_ctrl s.params 0).mpr rfl) rfl hstopped, State.hostStore, hctrl]

/-- An engine that is due executes the instruction at its pc. -/
theorem EngineDue.step_eq_exec {i : Instr} (h : EngineDue s) (hpc : s.pc.toNat < s.params.imemWords)
    (hi : decode (s.word s.pc.toNat) = .ok i) : step s = exec i s := by
  rw [step_engine s h.legal h.quiet, State.engineStep, if_pos h.running, State.runStep, State.fetch, if_pos hpc]
  simp only [State.execWord, hi]

/-- Settles O60: the write and START land one after the other, and the run's first fetch reads what was written. -/
theorem hostLoadedWordIsExecutedAfterStart : Obligations.HostLoadedWordIsExecutedAfterStart := by
  intro s w v i hlegal hstopped hpc hinputs hstart hreset hdecode
  refine ⟨_, _, WriteDue.step_imem ⟨hlegal, hinputs⟩ hstopped hpc,
    WriteDue.step_start ⟨hlegal, rfl⟩ hstopped hstart hreset, ⟨hlegal, rfl, rfl⟩,
    EngineDue.step_eq_exec ⟨hlegal, rfl, rfl⟩ hpc ?_, rfl, fun _ => rfl, rfl, fun _ => rfl⟩
  simpa [State.setWord_word] using hdecode

end Sys2Proof.Machine
end

section
/-! The encoding of 30_encoding.md: the decoder's masks read as fields, the form of each instruction checked once in
both directions, and from that the round trips, the illegal words and the examples of R113. -/

namespace Sys2Proof

open Sys2Proof.Machine
open Laws.EncodesOpcode (opcode)

section Fields
variable {w : Word32}

/-! ### Zero fields (30_encoding.md R91) -/

/-- A field of zero bits, as the value of the field. -/
theorem bitsZero_iff {lo n : Nat} : bitsZero w lo n ↔ w.extractLsb' lo n = 0 := by
  rw [BitVec.eq_of_getLsbD_eq_iff]
  constructor
  · intro h i hi
    simp [hi, h (lo + i) (by omega) (by omega)]
  · intro h i hlo hi
    simpa [show i - lo < n by omega, show lo + (i - lo) = i by omega] using h (i - lo) (by omega)

@[simp] theorem bitsZero_fieldA : bitsZero w 22 4 ↔ fieldA w = 0 := bitsZero_iff
@[simp] theorem bitsZero_fieldB : bitsZero w 18 4 ↔ fieldB w = 0 := bitsZero_iff
@[simp] theorem bitsZero_fieldC : bitsZero w 14 4 ↔ fieldC w = 0 := bitsZero_iff
@[simp] theorem bitsZero_fieldD : bitsZero w 10 4 ↔ fieldD w = 0 := bitsZero_iff
@[simp] theorem bitsZero_imm10 : bitsZero w 0 10 ↔ imm10Of w = 0 := bitsZero_iff

/-- Zero bits above the low `m` bits: the field of both is the low one, extended by zeros. -/
theorem bitsZero_iff_append (m n : Nat) : bitsZero w m n ↔ w.extractLsb' 0 (n + m) = 0#n ++ w.extractLsb' 0 m := by
  constructor
  · intro h
    refine BitVec.eq_of_getLsbD_eq fun i hi => ?_
    rw [BitVec.getLsbD_append]
    split_ifs with him
    · simp [hi, him]
    · simp [hi, h i (by omega) (by omega)]
  · intro h i hlo hi
    have hbit := congrArg (·.getLsbD i) h
    rw [BitVec.getLsbD_append, if_neg (by omega)] at hbit
    simpa [show i < n + m by omega] using hbit

@[simp] theorem bitsZero_above_shamt : bitsZero w 6 12 ↔ imm18Of w = 0#12 ++ shamtOf w := bitsZero_iff_append 6 12

@[simp] theorem bitsZero_above_csr : bitsZero w 12 6 ↔ imm18Of w = 0#6 ++ csrFieldOf w := bitsZero_iff_append 12 6

@[simp] theorem bitsZero_above_padFlag : bitsZero w 1 9 ↔ imm10Of w = 0#9 ++ BitVec.ofBool (padFlagOf w) := by
  have hflag : w.extractLsb' 0 1 = BitVec.ofBool (padFlagOf w) := BitVec.eq_of_getLsbD_eq (by simp [padFlagOf])
  rw [← hflag]
  exact bitsZero_iff_append 1 9

@[simp] theorem bitsZero_formatM (op : BitVec 6) (rd : RegNum) (hw : BitVec 2) (imm16 : BitVec 16) :
    bitsZero (formatM op rd hw imm16) 16 4 := by
  intro i hlo hi
  rw [formatM, BitVec.getLsbD_append, if_neg (by omega), BitVec.getLsbD_append, if_pos (by omega), BitVec.getLsbD_zero]

theorem bitsZero_formatN (op : BitVec 6) {lo n : Nat} (h : lo + n ≤ 26) : bitsZero (formatN op) lo n := by
  intro i hlo hi
  rw [formatN, BitVec.getLsbD_append, if_pos (by omega), BitVec.getLsbD_zero]

/-- A legal mask width has its three high bits 0: the part of R102 (c) that the masks of GFMOD and GFMULMOD check. -/
theorem bitsZero_of_maskWidthOk (h : maskWidthOk (imm10Of w)) : bitsZero w 7 3 := by
  intro i hlo hi
  have hbit : (imm10Of w).getLsbD i = false := by
    refine Nat.testBit_lt_two_pow (lt_of_le_of_lt h ?_)
    calc 64 < 2 ^ 7 := by decide
      _ ≤ 2 ^ i := Nat.pow_le_pow_right (by decide) hlo
  simpa [imm10Of, show i < 10 by omega] using hbit

/-! ### A word is its fields in its format (30_encoding.md R92 to R97) -/

theorem formatR_of_fields {op : BitVec 6} {a b c d : RegNum} {n : BitVec 10} (hop : opcodeOf w = op) (ha : fieldA w = a)
    (hb : fieldB w = b) (hc : fieldC w = c) (hd : fieldD w = d) (hn : imm10Of w = n) : formatR op a b c d n = w := by
  subst hop ha hb hc hd hn
  refine BitVec.eq_of_getLsbD_eq fun i hi => ?_
  simp only [formatR, opcodeOf, fieldA, fieldB, fieldC, fieldD, imm10Of, BitVec.getLsbD_append,
    BitVec.getLsbD_extractLsb']
  split_ifs <;> grind

theorem formatI_of_fields {op : BitVec 6} {a b : RegNum} {imm : BitVec 18} (hop : opcodeOf w = op) (ha : fieldA w = a)
    (hb : fieldB w = b) (himm : imm18Of w = imm) : formatI op a b imm = w := by
  subst hop ha hb himm
  refine BitVec.eq_of_getLsbD_eq fun i hi => ?_
  simp only [formatI, opcodeOf, fieldA, fieldB, imm18Of, BitVec.getLsbD_append, BitVec.getLsbD_extractLsb']
  split_ifs <;> grind

theorem formatM_of_fields {op : BitVec 6} (hop : opcodeOf w = op) (h : bitsZero w 16 4) :
    formatM op (fieldA w) (hwOf w) (imm16Of w) = w := by
  subst hop
  refine BitVec.eq_of_getLsbD_eq fun i hi => ?_
  simp only [formatM, opcodeOf, fieldA, hwOf, imm16Of, BitVec.getLsbD_append, BitVec.getLsbD_extractLsb']
  have hpad := h i
  split_ifs <;> grind

theorem formatN_of_fields {op : BitVec 6} (hop : opcodeOf w = op) (h : bitsZero w 0 26) : formatN op = w := by
  subst hop
  refine BitVec.eq_of_getLsbD_eq fun i hi => ?_
  simp only [formatN, opcodeOf, BitVec.getLsbD_append, BitVec.getLsbD_extractLsb']
  have hpad := h i
  split_ifs <;> grind

/-- The encoder puts the opcode of R100 into bits 31:26. -/
theorem opcodeOf_encode (i : Instr) : opcodeOf (encode i) = opcode i := by
  cases i <;> simp [encode, formatR3, opcode]

/-! ### Masks as fields (30_encoding.md R101) -/

/-- One of the fields, each given by its lowest bit and its width, holds bit `i`. -/
def inFields (fs : List (Nat × Nat)) (i : Nat) : Bool := fs.any fun f => f.1 ≤ i && i < f.1 + f.2

/-- Under a mask that covers some fields, a word matches exactly when it has the match word's value in each of them. -/
theorem and_eq_iff {fs : List (Nat × Nat)} {mask mtch : Word32}
    (hmask : ∀ i : Fin 32, mask.getLsbD i = inFields fs i) (hmtch : mtch &&& mask = mtch) :
    w &&& mask = mtch ↔ ∀ f ∈ fs, w.extractLsb' f.1 f.2 = mtch.extractLsb' f.1 f.2 := by
  constructor
  · intro h f hf
    refine BitVec.eq_of_getLsbD_eq fun i hi => ?_
    by_cases hlt : f.1 + i < 32
    · have hfix : mask.getLsbD (f.1 + i) = true := by
        rw [hmask ⟨_, hlt⟩, inFields, List.any_eq_true]
        exact ⟨f, hf, by simp [hi]⟩
      simp [← h, hi, hfix]
    · simp [BitVec.getLsbD_of_ge _ _ (Nat.le_of_not_lt hlt)]
  · intro h
    rw [← hmtch]
    refine BitVec.eq_of_getLsbD_eq fun i hi => ?_
    rw [BitVec.getLsbD_and, BitVec.getLsbD_and, hmask ⟨i, hi⟩]
    cases hin : inFields fs i with
    | false => simp
    | true =>
      obtain ⟨f, hf, hif⟩ := List.any_eq_true.mp hin
      have hbit := congrArg (·.getLsbD (i - f.1)) (h f hf)
      simp only [Bool.and_eq_true, decide_eq_true_eq] at hif
      simpa [show i - f.1 < f.2 by omega, show f.1 + (i - f.1) = i by omega] using hbit

/-- The fields beside the opcode that a row's mask covers, by opcode. For CSRW the csr field is one of them; for GFMOD
and GFMULMOD the three high bits of the mask width are. -/
def fixedFields (op : Nat) : List (Nat × Nat) :=
  match op with
  | 0x01 | 0x02 | 0x03 | 0x04 | 0x05 | 0x30 | 0x31 | 0x32 | 0x35 | 0x36 => [(10, 4), (0, 10)]
  | 0x07 | 0x08 => [(6, 12)]
  | 0x09 | 0x0A => [(16, 4)]
  | 0x1C => [(18, 4), (12, 6)]
  | 0x1D => [(22, 4), (12, 6), (0, 12)]
  | 0x1F | 0x20 => [(0, 26)]
  | 0x21 => [(22, 4), (14, 4), (10, 4), (0, 10)]
  | 0x22 => [(22, 4), (10, 4), (0, 10)]
  | 0x23 => [(18, 4), (14, 4), (10, 4), (0, 10)]
  | 0x28 | 0x29 => [(14, 4), (10, 4), (0, 10)]
  | 0x33 => [(10, 4), (7, 3)]
  | 0x34 => [(7, 3)]
  | 0x38 => [(14, 4), (10, 4), (1, 9)]
  | _ => []

theorem fixedFields_below_opcode : ∀ op : BitVec 6, ∀ f ∈ fixedFields op.toNat, f.1 + f.2 ≤ 26 := by
  decide +kernel

theorem rowOf_mask : ∀ op : BitVec 6, ∀ r ∈ rowOf op, ∀ i : Fin 32,
    r.mask.getLsbD i = inFields ((26, 6) :: fixedFields op.toNat) i := by
  decide +kernel

theorem rowOf_mtch : ∀ op : BitVec 6, op ≠ 0x1D → ∀ r ∈ rowOf op,
    r.mtch = formatN op ∧ r.mtch &&& r.mask = r.mtch := by
  decide +kernel

theorem rowOf_isNone_iff : ∀ op : BitVec 6, (rowOf op).isNone ↔ op.toNat ∈ reservedOpcodes := by
  decide +kernel

/-- Every field the row's mask covers is 0. -/
def FixedZero (w : Word32) : Prop := ∀ f ∈ fixedFields (opcodeOf w).toNat, bitsZero w f.1 f.2

theorem FixedZero.fields {op : BitVec 6} {fs : List (Nat × Nat)} (h : FixedZero w) (hop : opcodeOf w = op)
    (hfs : fixedFields op.toNat = fs) : fs.Forall fun f => bitsZero w f.1 f.2 := by
  rw [List.forall_iff_forall_mem, ← hfs, ← hop]
  exact h

/-- A word matches its row exactly when the fixed fields are 0, except for CSRW's row, which fixes a csr number. -/
theorem match_iff {op : BitVec 6} {r : Row} (hop : opcodeOf w = op) (hrow : rowOf op = some r) (hne : op ≠ 0x1D) :
    w &&& r.mask = r.mtch ↔ FixedZero w := by
  subst hop
  obtain ⟨hmtch, hself⟩ := rowOf_mtch _ hne r hrow
  have hopcode : w.extractLsb' 26 6 = r.mtch.extractLsb' 26 6 := by
    rw [hmtch]
    exact (opcodeOf_formatN _).symm
  rw [and_eq_iff (rowOf_mask _ r hrow) hself, List.forall_mem_cons, and_iff_right hopcode]
  refine forall₂_congr fun f hf => ?_
  rw [bitsZero_iff, hmtch, bitsZero_iff.mp (bitsZero_formatN _ (fixedFields_below_opcode _ f hf))]

theorem match_csrw_iff (hop : opcodeOf w = 0x1D) :
    w &&& 0xFFC3FFFF = 0x74000001 ↔ bitsZero w 22 4 ∧ bitsZero w 12 6 ∧ csrFieldOf w = 0x001 := by
  have hmask : ∀ i : Fin 32, (0xFFC3FFFF : Word32).getLsbD i = inFields ((26, 6) :: fixedFields 0x1D) i :=
    rowOf_mask 0x1D _ rfl
  rw [opcodeOf] at hop
  exact (and_eq_iff hmask rfl).trans (by simp [fixedFields, hop, bitsZero_iff, csrFieldOf])

/-! ### CSR numbers (10_state.md R39) -/

theorem number_of_csrOfNumber {n : BitVec 12} {c : Csr} (h : csrOfNumber n = some c) : c.number = n := by
  unfold csrOfNumber at h
  split at h <;> cases h
  all_goals next hn => exact BitVec.eq_of_toNat_eq hn.symm

theorem csrOfNumber_eq_none_iff {n : BitVec 12} : csrOfNumber n = none ↔ n.toNat ∉ assignedCsrs := by
  unfold csrOfNumber
  split <;> simp_all [assignedCsrs]

/-! ### The illegal words of each opcode (30_encoding.md R102) -/

/-- The opcodes with a condition beside the reserved fields: R102 (c), (d) and (e). -/
def hasCondition (op : BitVec 6) : Bool := op == 0x1C || op == 0x1D || op == 0x33 || op == 0x34

theorem reservedFieldsZero_iff (hplain : hasCondition (opcodeOf w) = false) : reservedFieldsZero w ↔ FixedZero w := by
  simp only [hasCondition, Bool.or_eq_false_iff, beq_eq_false_iff_ne, ne_eq, ← BitVec.toNat_inj] at hplain
  unfold reservedFieldsZero FixedZero
  split <;> simp_all [fixedFields]

theorem illegalWord_iff_plain {op : BitVec 6} {r : Row} (hop : opcodeOf w = op) (hrow : rowOf op = some r)
    (hplain : hasCondition op = false) : IllegalWord w ↔ ¬ FixedZero w := by
  subst hop
  have hassigned : (opcodeOf w).toNat ∉ reservedOpcodes := by
    simp [← rowOf_isNone_iff, hrow]
  rw [IllegalWord, ← reservedFieldsZero_iff hplain]
  simp only [hasCondition, Bool.or_eq_false_iff, beq_eq_false_iff_ne, ne_eq, ← BitVec.toNat_inj] at hplain
  simp_all

theorem illegalWord_iff_maskWidth (hop : opcodeOf w = 0x33 ∨ opcodeOf w = 0x34) :
    IllegalWord w ↔ ¬ (FixedZero w ∧ maskWidthOk (imm10Of w)) := by
  have hhigh := bitsZero_of_maskWidthOk (w := w)
  obtain hop | hop := hop
  all_goals
    by_cases hn : maskWidthOk (imm10Of w) <;>
      simp_all [IllegalWord, FixedZero, reservedFieldsZero, fixedFields, reservedOpcodes]

theorem illegalWord_iff_csrr (hop : opcodeOf w = 0x1C) :
    IllegalWord w ↔ ¬ (FixedZero w ∧ csrOfNumber (csrFieldOf w) ≠ none) := by
  rw [Ne, csrOfNumber_eq_none_iff]
  by_cases hcsr : (csrFieldOf w).toNat ∈ assignedCsrs <;>
    simp [IllegalWord, FixedZero, reservedFieldsZero, fixedFields, reservedOpcodes, hop, hcsr]

theorem illegalWord_iff_csrw (hop : opcodeOf w = 0x1D) :
    IllegalWord w ↔ ¬ (bitsZero w 22 4 ∧ bitsZero w 12 6 ∧ csrFieldOf w = 0x001) := by
  simp [IllegalWord, reservedFieldsZero, reservedOpcodes, hop, imp_iff_not_or, or_assoc]

/-! ### What the decoder answers -/

/-- The decoder's answer `r` for the word is right: a legal word's instruction is well-formed and has this encoding, and
only an illegal word is rejected. -/
inductive DecodeResult (w : Word32) : Except Illegal Instr → Prop
  | legal {i : Instr} (hlegal : ¬ IllegalWord w) (hwf : i.WellFormed) (henc : encode i = w) : DecodeResult w (.ok i)
  | illegal (e : Illegal) (hillegal : IllegalWord w) : DecodeResult w (.error e)

section Row
variable {op : BitVec 6} {r : Row} (hop : opcodeOf w = op) (hrow : rowOf op = some r)
include hop hrow

theorem decode_of_match (h : w &&& r.mask = r.mtch) : decode w = r.build w := by
  simp only [decode, hop, hrow, if_pos h]

theorem decode_of_mismatch (h : ¬ w &&& r.mask = r.mtch) : decode w = .error (mismatch w) := by
  simp only [decode, hop, hrow, if_neg h]

/-- The answer is right when the row builds the right one and rejects by its mask only illegal words. -/
theorem DecodeResult.of_row (hmatch : w &&& r.mask = r.mtch → DecodeResult w (r.build w))
    (hmiss : ¬ w &&& r.mask = r.mtch → IllegalWord w) : DecodeResult w (decode w) := by
  by_cases h : w &&& r.mask = r.mtch
  · rw [decode_of_match hop hrow h]
    exact hmatch h
  · rw [decode_of_mismatch hop hrow h]
    exact .illegal _ (hmiss h)

end Row
end Fields

/-! ### The form of each instruction, in both directions

`DecodesForm i` is what an instruction's row owes: `i` survives encoding and decoding, and every word with `i`'s opcode
is decoded rightly. -/

structure DecodesForm (i : Instr) : Prop where
  decode_encode : i.WellFormed → decode (encode i) = .ok i
  result : ∀ w, opcodeOf w = opcode i → DecodeResult w (decode w)

namespace DecodesForm

/-- A row without a condition, from what it reads (`hfields`) and what the encoder writes (`hself`, `henc`). -/
theorem of_plainRow {i : Instr} {mask mtch : Word32} {instr : Word32 → Instr}
    (hrow : rowOf (opcode i) = some (plainRow mask mtch instr)) (hplain : hasCondition (opcode i) = false)
    (hwf : ∀ w, (instr w).WellFormed) (hself : FixedZero (encode i)) (hfields : instr (encode i) = i)
    (henc : ∀ w, opcodeOf w = opcode i → FixedZero w → encode (instr w) = w) : DecodesForm i := by
  have hne : opcode i ≠ 0x1D := by
    intro h
    simp [hasCondition, h] at hplain
  constructor
  · intro _
    have hmatch := (match_iff (opcodeOf_encode i) hrow hne).mpr hself
    exact (decode_of_match (opcodeOf_encode i) hrow hmatch).trans (congrArg Except.ok hfields)
  · intro w hop
    have hmatch := match_iff hop hrow hne
    have hillegal := illegalWord_iff_plain hop hrow hplain
    refine .of_row hop hrow (fun h => .legal ?_ (hwf w) (henc w hop (hmatch.mp h))) fun h => ?_
    · exact hillegal.not_left.mpr (hmatch.mp h)
    · exact hillegal.mpr (hmatch.not.mp h)

/-- The three-register form of format R. -/
theorem of_regs3 {instr : RegNum → RegNum → RegNum → Instr} {a b c : RegNum} {mask mtch : Word32}
    (hrow : rowOf (opcode (instr a b c)) = some (plainRow mask mtch (regs3 instr)))
    (hplain : hasCondition (opcode (instr a b c)) = false)
    (hfixed : fixedFields (opcode (instr a b c)).toNat = [(10, 4), (0, 10)])
    (hwf : ∀ a b c, (instr a b c).WellFormed)
    (henc : ∀ a' b' c', encode (instr a' b' c') = formatR3 (opcode (instr a b c)) a' b' c') :
    DecodesForm (instr a b c) := by
  refine of_plainRow hrow hplain (fun w => hwf ..) ?_ ?_ fun w hop hz => ?_
  · simp [FixedZero, henc, formatR3, hfixed]
  · simp [henc, formatR3, regs3]
  · obtain ⟨hd, hn⟩ := hz.fields hop hfixed
    rw [regs3, henc]
    exact formatR_of_fields hop rfl rfl rfl (bitsZero_fieldD.mp hd) (bitsZero_imm10.mp hn)

/-- Formats I, S and B with an immediate of 18 bits, which fix no field. -/
theorem of_regs2Imm18 {instr : RegNum → RegNum → BitVec 18 → Instr} {a b : RegNum} {imm : BitVec 18}
    {mask mtch : Word32} (hrow : rowOf (opcode (instr a b imm)) = some (plainRow mask mtch (regs2Imm18 instr)))
    (hplain : hasCondition (opcode (instr a b imm)) = false)
    (hfixed : fixedFields (opcode (instr a b imm)).toNat = [])
    (hwf : ∀ a b imm, (instr a b imm).WellFormed)
    (henc : ∀ a' b' imm', encode (instr a' b' imm') = formatI (opcode (instr a b imm)) a' b' imm') :
    DecodesForm (instr a b imm) := by
  refine of_plainRow hrow hplain (fun w => hwf ..) ?_ ?_ fun w hop _ => ?_
  · simp [FixedZero, henc, hfixed]
  · simp [henc, regs2Imm18]
  · rw [regs2Imm18, henc]
    exact formatI_of_fields hop rfl rfl rfl

/-- GFMOD and GFMULMOD, whose rows also ask for a mask width of at most 64. -/
theorem of_maskWidthRow {i : Instr} {mask mtch : Word32} {instr : Word32 → Instr}
    (hrow : rowOf (opcode i) = some (maskWidthRow mask mtch instr)) (hcond : opcode i = 0x33 ∨ opcode i = 0x34)
    (hwf : ∀ w, maskWidthOk (imm10Of w) → (instr w).WellFormed)
    (hself : i.WellFormed → FixedZero (encode i) ∧ maskWidthOk (imm10Of (encode i)))
    (hfields : instr (encode i) = i)
    (henc : ∀ w, opcodeOf w = opcode i → FixedZero w → encode (instr w) = w) : DecodesForm i := by
  have hne : opcode i ≠ 0x1D := by
    obtain h | h := hcond <;> simp [h]
  constructor
  · intro hi
    obtain ⟨hz, hn⟩ := hself hi
    have hmatch := (match_iff (opcodeOf_encode i) hrow hne).mpr hz
    rw [decode_of_match (opcodeOf_encode i) hrow hmatch]
    exact (if_pos hn).trans (congrArg Except.ok hfields)
  · intro w hop
    have hmatch := match_iff hop hrow hne
    have hillegal := illegalWord_iff_maskWidth (hop ▸ hcond)
    refine .of_row hop hrow (fun h => ?_) fun h => hillegal.mpr fun ⟨hz, _⟩ => h (hmatch.mpr hz)
    by_cases hn : maskWidthOk (imm10Of w)
    · simp only [maskWidthRow, if_pos hn]
      exact .legal (hillegal.not_left.mpr ⟨hmatch.mp h, hn⟩) (hwf w hn) (henc w hop (hmatch.mp h))
    · simp only [maskWidthRow, if_neg hn]
      exact .illegal _ (hillegal.mpr fun ⟨_, hok⟩ => hn hok)

theorem of_csrr (rd : RegNum) (csr : Csr) : DecodesForm (.csrr rd csr) := by
  have hrow : rowOf 0x1C = some ⟨0xFC3FF000, 0x70000000, buildCsrr⟩ := rfl
  constructor
  · intro _
    have hop : opcodeOf (encode (.csrr rd csr)) = 0x1C := opcodeOf_encode _
    have hz : FixedZero (encode (.csrr rd csr)) := by
      simp [FixedZero, encode, fixedFields]
    rw [decode_of_match hop hrow ((match_iff hop hrow (by decide)).mpr hz)]
    simp [buildCsrr, encode]
  · intro w (hop : opcodeOf w = 0x1C)
    have hmatch := match_iff hop hrow (by decide)
    have hillegal := illegalWord_iff_csrr hop
    refine .of_row hop hrow (fun h => ?_) fun h => hillegal.mpr fun ⟨hz, _⟩ => h (hmatch.mpr hz)
    obtain ⟨hb, hpad⟩ := (hmatch.mp h).fields hop rfl
    cases hcsr : csrOfNumber (csrFieldOf w) with
    | none =>
      simp only [buildCsrr, hcsr]
      exact .illegal _ (hillegal.mpr fun ⟨_, hsome⟩ => hsome hcsr)
    | some c =>
      simp only [buildCsrr, hcsr]
      refine .legal (hillegal.not_left.mpr ⟨hmatch.mp h, by simp [hcsr]⟩) rfl ?_
      exact formatI_of_fields hop rfl (bitsZero_fieldB.mp hb)
        (number_of_csrOfNumber hcsr ▸ bitsZero_above_csr.mp hpad)

theorem of_csrw (rs1 : RegNum) : DecodesForm (.csrw rs1) := by
  have hrow : rowOf 0x1D = some (plainRow 0xFFC3FFFF 0x74000001 fun w => .csrw (fieldB w)) := rfl
  constructor
  · intro _
    have hop : opcodeOf (encode (.csrw rs1)) = 0x1D := opcodeOf_encode _
    have hcsr : csrFieldOf (encode (.csrw rs1)) = 0x001 := csrFieldOf_formatI ..
    have hmatch := (match_csrw_iff hop).mpr ⟨by simp [encode], by simp [encode], hcsr⟩
    rw [decode_of_match hop hrow hmatch]
    simp [plainRow, encode]
  · intro w (hop : opcodeOf w = 0x1D)
    have hmatch := match_csrw_iff hop
    have hillegal := illegalWord_iff_csrw hop
    refine .of_row hop hrow (fun h => ?_) fun h => hillegal.mpr (hmatch.not.mp h)
    obtain ⟨ha, hpad, hcsr⟩ := hmatch.mp h
    refine .legal (hillegal.not_left.mpr (hmatch.mp h)) rfl ?_
    exact formatI_of_fields hop (bitsZero_fieldA.mp ha) rfl
      ((bitsZero_above_csr.mp hpad).trans (congrArg _ hcsr))

end DecodesForm

open DecodesForm in
theorem decodesForm (i : Instr) : DecodesForm i := by
  cases i with
  | add | sub | and | or | xor | clmul | clmulh | gfdiv | gfinv | gfdivx32 =>
    exact of_regs3 rfl rfl rfl (fun _ _ _ => rfl) fun _ _ _ => rfl
  | addi | lb | lw | ld | sb | sw | sd | beq | bne | bltu =>
    exact of_regs2Imm18 rfl rfl rfl (fun _ _ _ => rfl) fun _ _ _ => rfl
  | slli | srli =>
    refine of_plainRow rfl rfl (fun _ => rfl) ?_ ?_ fun w hop hz => ?_
    · simp [FixedZero, encode, fixedFields]
    · simp [encode]
    · exact formatI_of_fields hop rfl rfl (bitsZero_above_shamt.mp (hz.fields hop rfl))
  | movz | movk =>
    refine of_plainRow rfl rfl (fun _ => rfl) ?_ ?_ fun w hop hz => ?_
    · simp [FixedZero, encode, fixedFields]
    · simp [encode]
    · exact formatM_of_fields hop (hz.fields hop rfl)
  | csrr => exact of_csrr ..
  | csrw => exact of_csrw ..
  | halt | crci =>
    refine of_plainRow rfl rfl (fun _ => rfl) ?_ rfl fun w hop hz => ?_
    · simp [FixedZero, encode, fixedFields, bitsZero_formatN]
    · exact formatN_of_fields hop (hz.fields hop rfl)
  | crcb =>
    refine of_plainRow rfl rfl (fun _ => rfl) ?_ ?_ fun w hop hz => ?_
    · simp [FixedZero, encode, formatR3, fixedFields]
    · simp [encode, formatR3]
    · obtain ⟨ha, hc, hd, hn⟩ := hz.fields hop rfl
      exact formatR_of_fields hop (bitsZero_fieldA.mp ha) rfl (bitsZero_fieldC.mp hc) (bitsZero_fieldD.mp hd)
        (bitsZero_imm10.mp hn)
  | crcu =>
    refine of_plainRow rfl rfl (fun _ => rfl) ?_ ?_ fun w hop hz => ?_
    · simp [FixedZero, encode, formatR3, fixedFields]
    · simp [encode, formatR3]
    · obtain ⟨ha, hd, hn⟩ := hz.fields hop rfl
      exact formatR_of_fields hop (bitsZero_fieldA.mp ha) rfl rfl (bitsZero_fieldD.mp hd) (bitsZero_imm10.mp hn)
  | crcf =>
    refine of_plainRow rfl rfl (fun _ => rfl) ?_ ?_ fun w hop hz => ?_
    · simp [FixedZero, encode, formatR3, fixedFields]
    · simp [encode, formatR3]
    · obtain ⟨hb, hc, hd, hn⟩ := hz.fields hop rfl
      exact formatR_of_fields hop rfl (bitsZero_fieldB.mp hb) (bitsZero_fieldC.mp hc) (bitsZero_fieldD.mp hd)
        (bitsZero_imm10.mp hn)
  | brev32 | brev8 =>
    refine of_plainRow rfl rfl (fun _ => rfl) ?_ ?_ fun w hop hz => ?_
    · simp [FixedZero, encode, formatR3, fixedFields]
    · simp [encode, formatR3]
    · obtain ⟨hc, hd, hn⟩ := hz.fields hop rfl
      exact formatR_of_fields hop rfl rfl (bitsZero_fieldC.mp hc) (bitsZero_fieldD.mp hd) (bitsZero_imm10.mp hn)
  | gfmod rd rs1 rs2 n =>
    refine of_maskWidthRow rfl (.inl rfl) (fun w hn => decide_eq_true hn) (fun hwf => ?_) ?_ fun w hop hz => ?_
    · have hn : maskWidthOk (imm10Of (encode (.gfmod rd rs1 rs2 n))) := by
        simpa [encode] using of_decide_eq_true hwf
      exact ⟨by simpa [FixedZero, encode, fixedFields] using bitsZero_of_maskWidthOk hn, hn⟩
    · simp [encode]
    · obtain ⟨hd, _⟩ := hz.fields hop rfl
      exact formatR_of_fields hop rfl rfl rfl (bitsZero_fieldD.mp hd) rfl
  | gfmulmod rd rs1 rs2 rs3 n =>
    refine of_maskWidthRow rfl (.inr rfl) (fun w hn => decide_eq_true hn) (fun hwf => ?_) ?_ fun w hop _ => ?_
    · have hn : maskWidthOk (imm10Of (encode (.gfmulmod rd rs1 rs2 rs3 n))) := by
        simpa [encode] using of_decide_eq_true hwf
      exact ⟨by simpa [FixedZero, encode, fixedFields] using bitsZero_of_maskWidthOk hn, hn⟩
    · simp [encode]
    · exact formatR_of_fields hop rfl rfl rfl rfl rfl
  | forge =>
    refine of_plainRow rfl rfl (fun _ => rfl) ?_ ?_ fun w hop hz => ?_
    · simp [FixedZero, encode, fixedFields]
    · simp [encode]
    · obtain ⟨hc, hd, hn⟩ := hz.fields hop rfl
      exact formatR_of_fields hop rfl rfl (bitsZero_fieldC.mp hc) (bitsZero_fieldD.mp hd)
        (bitsZero_above_padFlag.mp hn)

/-! ### Every word -/

/-- One instruction of each of the 36 opcodes. -/
def oneOfEach : List Instr :=
  [.add 0 0 0, .sub 0 0 0, .and 0 0 0, .or 0 0 0, .xor 0 0 0, .addi 0 0 0, .slli 0 0 0, .srli 0 0 0, .movz 0 0 0,
    .movk 0 0 0, .lb 0 0 0, .lw 0 0 0, .ld 0 0 0, .sb 0 0 0, .sw 0 0 0, .sd 0 0 0, .beq 0 0 0, .bne 0 0 0, .bltu 0 0 0,
    .csrr 0 .crc, .csrw 0, .halt, .crci, .crcb 0, .crcu 0 0, .crcf 0, .brev32 0 0, .brev8 0 0, .clmul 0 0 0,
    .clmulh 0 0 0, .gfdiv 0 0 0, .gfmod 0 0 0 0, .gfmulmod 0 0 0 0 0, .gfinv 0 0 0, .gfdivx32 0 0 0, .forge 0 0 false]

/-- An opcode is reserved or is some instruction's (30_encoding.md R100). -/
theorem opcode_cases : ∀ op : BitVec 6, op.toNat ∈ reservedOpcodes ∨ ∃ i ∈ oneOfEach, opcode i = op := by
  decide

/-- The decoder is right about every word (30_encoding.md R101, R102, R104). -/
theorem decode_result (w : Word32) : DecodeResult w (decode w) := by
  obtain hreserved | ⟨i, _, hi⟩ := opcode_cases (opcodeOf w)
  · have hrow : rowOf (opcodeOf w) = none := Option.isNone_iff_eq_none.mp ((rowOf_isNone_iff _).mpr hreserved)
    rw [decode, hrow]
    exact .illegal _ (.inl hreserved)
  · exact (decodesForm i).result w hi.symm

theorem decode_ok_spec {w : Word32} {i : Instr} (h : decode w = .ok i) :
    ¬ IllegalWord w ∧ i.WellFormed ∧ encode i = w := by
  have hresult := decode_result w
  rw [h] at hresult
  cases hresult with
  | legal hlegal hwf henc => exact ⟨hlegal, hwf, henc⟩

theorem illegalWord_of_decode_error {w : Word32} {e : Illegal} (h : decode w = .error e) : IllegalWord w := by
  have hresult := decode_result w
  rw [h] at hresult
  cases hresult with
  | illegal _ hillegal => exact hillegal

theorem decode_of_encode_eq {w : Word32} {i : Instr} (hwf : i.WellFormed) (hw : encode i = w) : decode w = .ok i :=
  hw ▸ (decodesForm i).decode_encode hwf

/-- An engine that is due takes ILLEGAL_INSTRUCTION on a word the decoder rejects (60_exceptions.md R304). -/
theorem Machine.EngineDue.step_eq_raise {s : State} {e : Illegal} (h : EngineDue s)
    (hpc : s.pc.toNat < s.params.imemWords) (he : decode (s.word s.pc.toNat) = .error e) :
    step s = s.raise .illegalInstruction ((s.word s.pc.toNat).setWidth 64) 0 := by
  rw [step_engine s h.legal h.quiet, State.engineStep, if_pos h.running, State.runStep, State.fetch, if_pos hpc]
  simp only [State.execWord, he]

/-! ### The obligations of 30_encoding.md -/

/-- Settles O1: every instruction's form survives the round trip. -/
theorem decodeOfEncodeIsTheInstruction : Obligations.DecodeOfEncodeIsTheInstruction :=
  fun i hwf => (decodesForm i).decode_encode hwf

/-- Settles O2: the fixed fields of a word that decodes are what the encoder writes, and the rest are operands. -/
theorem encodeOfDecodeIsTheWord : Obligations.EncodeOfDecodeIsTheWord := by
  intro w i hdecode
  obtain ⟨_, hwf, henc⟩ := decode_ok_spec hdecode
  exact ⟨hwf, henc⟩

/-- Settles O3: the decoder rejects exactly the illegal words, and the step follows the decoder. -/
theorem illegalWordsFaultAndOthersExecute : Obligations.IllegalWordsFaultAndOthersExecute := by
  intro s w hdue hpc hw
  subst hw
  cases hdecode : decode (s.word s.pc.toNat) with
  | ok i =>
    obtain ⟨hlegal, _, _⟩ := decode_ok_spec hdecode
    exact ⟨fun hillegal => absurd hillegal hlegal, fun _ => ⟨i, rfl, hdue.step_eq_exec hpc hdecode⟩⟩
  | error e =>
    have hillegal := illegalWord_of_decode_error hdecode
    rw [hdue.step_eq_raise hpc hdecode, BitVec.ofNat_toNat]
    exact ⟨fun _ => s.raise_spec .., fun hlegal => absurd hillegal hlegal⟩

/-- Settles O4: each of the twelve words is the encoding of its instruction. -/
theorem specExampleWordsDecode : Obligations.SpecExampleWordsDecode := by
  refine ⟨?_, ?_, ?_, ?_, ?_, ?_, ?_, ?_, ?_, ?_, ?_, ?_⟩
  all_goals exact decode_of_encode_eq rfl (by decide)

end Sys2Proof
end

section
/-! The carry-less product of 41_gf2_arith.md R120 as the product of the ring of polynomials over GF(2). -/

namespace Sys2Proof.Machine

open Polynomial (X)

/-! ### Widths and degrees (00_scope.md R13) -/

theorem deg_eq_bitLength_sub_one (a : Nat) : deg a = bitLength a - 1 := by
  unfold deg bitLength
  split <;> simp

theorem neg_one_le_deg (a : Nat) : -1 ≤ deg a := by
  rw [deg_eq_bitLength_sub_one]
  omega

theorem lt_two_pow_iff_bitLength_le {a n : Nat} : a < 2 ^ n ↔ bitLength a ≤ n := by
  by_cases ha : a = 0
  · simp [ha, bitLength]
  · rw [bitLength, if_neg ha, ← Nat.log2_lt ha, Nat.lt_iff_add_one_le]

theorem lt_two_pow_iff_deg_lt {a n : Nat} : a < 2 ^ n ↔ deg a < n := by
  rw [lt_two_pow_iff_bitLength_le, deg_eq_bitLength_sub_one]
  omega

theorem lt_two_pow_of_deg_le {a b n : Nat} (h : deg a ≤ deg b) (hb : b < 2 ^ n) : a < 2 ^ n := by
  rw [lt_two_pow_iff_deg_lt] at hb ⊢
  omega

theorem lt_two_pow_of_deg_lt {a b n : Nat} (h : deg a < deg b) (hb : b < 2 ^ (n + 1)) : a < 2 ^ n := by
  rw [lt_two_pow_iff_deg_lt] at hb ⊢
  omega

theorem deg_of_ne_zero {a : Nat} (ha : a ≠ 0) : deg a = a.log2 := if_neg ha

theorem deg_nonneg_iff {a : Nat} : 0 ≤ deg a ↔ a ≠ 0 := by
  unfold deg
  split <;> simp_all

/-! ### Numbers as polynomials over GF(2) (00_scope.md R13) -/

/-- The polynomial a number stands for: bit i is the coefficient of x^i. -/
noncomputable def toPoly (a : Nat) : Polynomial (ZMod 2) :=
  ∑ i ∈ Finset.range (bitLength a), if a.testBit i then X ^ i else 0

theorem coeff_toPoly (a k : Nat) : (toPoly a).coeff k = if a.testBit k then 1 else 0 := by
  have hterm (i : Nat) : (if a.testBit i then (X : Polynomial (ZMod 2)) ^ i else 0).coeff k =
      if k = i then (if a.testBit i then 1 else 0) else 0 := by
    split <;> simp [Polynomial.coeff_X_pow]
  simp only [toPoly, Polynomial.finsetSum_coeff, hterm, Finset.sum_ite_eq, Finset.mem_range]
  by_cases hk : k < bitLength a
  · rw [if_pos hk]
  · have hlt : a < 2 ^ k := lt_two_pow_iff_bitLength_le.mpr (not_lt.mp hk)
    simp [hk, Nat.testBit_lt_two_pow hlt]

theorem toPoly_injective : Function.Injective toPoly := by
  intro a b h
  refine Nat.eq_of_testBit_eq fun k => ?_
  have hk := congrArg (Polynomial.coeff · k) h
  simp only [coeff_toPoly] at hk
  cases ha : a.testBit k <;> cases hb : b.testBit k <;> simp_all

@[simp] theorem toPoly_inj {a b : Nat} : toPoly a = toPoly b ↔ a = b := toPoly_injective.eq_iff

@[simp] theorem toPoly_zero : toPoly 0 = 0 := by
  simp [toPoly, bitLength]

@[simp] theorem toPoly_two_pow (n : Nat) : toPoly (2 ^ n) = X ^ n := by
  ext k
  simp [coeff_toPoly, Polynomial.coeff_X_pow, Nat.testBit_two_pow, eq_comm]

@[simp] theorem toPoly_one : toPoly 1 = 1 := toPoly_two_pow 0

@[simp] theorem toPoly_eq_zero {a : Nat} : toPoly a = 0 ↔ a = 0 := by
  rw [← toPoly_zero, toPoly_inj]

@[simp] theorem toPoly_xor (a b : Nat) : toPoly (a ^^^ b) = toPoly a + toPoly b := by
  ext k
  rw [Polynomial.coeff_add, coeff_toPoly, coeff_toPoly, coeff_toPoly, Nat.testBit_xor]
  cases a.testBit k <;> cases b.testBit k <;> decide

/-- Over GF(2) adding is subtracting. -/
theorem toPoly_xor_eq_sub (a b : Nat) : toPoly (a ^^^ b) = toPoly a - toPoly b := by
  rw [toPoly_xor, CharTwo.sub_eq_add]

@[simp] theorem toPoly_shiftLeft (a n : Nat) : toPoly (a <<< n) = toPoly a * X ^ n := by
  ext k
  rw [Polynomial.coeff_mul_X_pow', coeff_toPoly, coeff_toPoly, Nat.testBit_shiftLeft]
  by_cases h : n ≤ k <;> simp [h]

theorem toPoly_surjective : Function.Surjective toPoly := by
  intro p
  induction p using Polynomial.induction_on' with
  | add p q hp hq =>
    obtain ⟨a, rfl⟩ := hp
    obtain ⟨b, rfl⟩ := hq
    exact ⟨a ^^^ b, toPoly_xor a b⟩
  | monomial n c =>
    obtain rfl | rfl : c = 0 ∨ c = 1 := by
      revert c
      decide
    · exact ⟨0, by simp⟩
    · exact ⟨2 ^ n, by rw [toPoly_two_pow, Polynomial.monomial_one_right_eq_X_pow]⟩

/-! ### The degree of both -/

theorem degree_toPoly_lt_iff {a n : Nat} : (toPoly a).degree < n ↔ a < 2 ^ n := by
  rw [Polynomial.degree_lt_iff_coeff_zero]
  constructor
  · intro h
    refine Nat.lt_pow_two_of_testBit a fun i hi => ?_
    simpa [coeff_toPoly] using h i hi
  · intro h k hk
    have hbit := Nat.testBit_lt_two_pow (h.trans_le (Nat.pow_le_pow_right two_pos hk))
    simp [coeff_toPoly, hbit]

theorem degree_toPoly {a : Nat} (ha : a ≠ 0) : (toPoly a).degree = a.log2 := by
  refine le_antisymm (Order.le_of_lt_succ ?_) ?_
  · exact degree_toPoly_lt_iff.mpr (Nat.lt_log2_self)
  · rw [← not_lt, degree_toPoly_lt_iff, not_lt]
    exact Nat.log2_self_le ha

theorem degree_toPoly_lt_degree_iff {a b : Nat} : (toPoly a).degree < (toPoly b).degree ↔ deg a < deg b := by
  by_cases hb : b = 0
  · simpa [hb, deg] using neg_one_le_deg a
  · rw [degree_toPoly hb, degree_toPoly_lt_iff, lt_two_pow_iff_deg_lt, deg_of_ne_zero hb]

theorem degree_toPoly_le_degree_iff {a b : Nat} : (toPoly a).degree ≤ (toPoly b).degree ↔ deg a ≤ deg b := by
  rw [← not_lt, degree_toPoly_lt_degree_iff, not_lt]

theorem degree_toPoly_eq_degree_iff {a b : Nat} : (toPoly a).degree = (toPoly b).degree ↔ deg a = deg b := by
  simp only [le_antisymm_iff, degree_toPoly_le_degree_iff]

/-- Over GF(2) every polynomial but 0 is monic. -/
theorem monic_toPoly {a : Nat} (ha : a ≠ 0) : (toPoly a).Monic := by
  have hunit : ∀ c : ZMod 2, c ≠ 0 → c = 1 := by decide
  exact hunit _ (Polynomial.leadingCoeff_ne_zero.mpr (toPoly_eq_zero.not.mpr ha))

theorem deg_xor_le {a b c : Nat} (ha : deg a ≤ deg c) (hb : deg b ≤ deg c) : deg (a ^^^ b) ≤ deg c := by
  rw [← degree_toPoly_le_degree_iff] at ha hb ⊢
  rw [toPoly_xor]
  exact (Polynomial.degree_add_le _ _).trans (max_le ha hb)

/-- The only unit among the polynomials over GF(2) is 1. -/
theorem isUnit_toPoly_iff {r : Nat} : IsUnit (toPoly r) ↔ r = 1 := by
  constructor
  · intro h
    have hr : r ≠ 0 := by
      rintro rfl
      simp at h
    have hone := (monic_toPoly hr).eq_one_of_isUnit h
    rwa [← toPoly_one, toPoly_inj] at hone
  · rintro rfl
    simp

/-! ### The product (41_gf2_arith.md R120) -/

/-- The shift-and-XOR over the low bits of b, as a sum of shifted copies of a. -/
theorem toPoly_clmulLow (a b n : Nat) :
    toPoly (clmulLow a b n) = toPoly a * ∑ i ∈ Finset.range n, if b.testBit i then X ^ i else 0 := by
  induction n with
  | zero => simp [clmulLow]
  | succ n ih =>
    rw [clmulLow, toPoly_xor, ih, Finset.sum_range_succ, mul_add]
    split <;> simp

@[simp] theorem toPoly_clmul (a b : Nat) : toPoly (clmul a b) = toPoly a * toPoly b := toPoly_clmulLow a b (bitLength b)

/-- A parity in GF(2): the sum of the truth values. -/
theorem sum_range_eq_countP (p : Nat → Bool) (n : Nat) :
    (∑ j ∈ Finset.range n, if p j then 1 else 0 : ZMod 2) = (List.range n).countP p := by
  induction n with
  | zero => rfl
  | succ n ih =>
    rw [Finset.sum_range_succ, ih, List.range_succ, List.countP_append, Nat.cast_add]
    cases h : p n <;> simp [h]

/-- A truth value that is a count in GF(2) is the count's parity. -/
theorem eq_parity_of_cast {p : Bool} {n : Nat} (h : (if p then 1 else 0 : ZMod 2) = n) : p = (n % 2 == 1) := by
  rw [← ZMod.natCast_mod] at h
  obtain hn | hn := Nat.mod_two_eq_zero_or_one n
  all_goals
    rw [hn] at h ⊢
    cases p <;> simp_all

/-- Coefficient k of the product is a sum in GF(2), so the parity that `productBit` counts. -/
theorem testBit_clmul (a b k : Nat) : (clmul a b).testBit k = productBit a b k := by
  have hterm (j : Nat) : (toPoly b).coeff j * (toPoly a).coeff (k - j) =
      if a.testBit (k - j) && b.testBit j then 1 else 0 := by
    simp only [coeff_toPoly]
    cases a.testBit (k - j) <;> cases b.testBit j <;> simp
  apply eq_parity_of_cast
  rw [← coeff_toPoly, toPoly_clmul, mul_comm, Polynomial.coeff_mul,
    Finset.Nat.sum_antidiagonal_eq_sum_range_succ_mk, Finset.sum_congr rfl fun j _ => hterm j]
  exact sum_range_eq_countP _ _

theorem clmul_comm (a b : Nat) : clmul a b = clmul b a := by
  apply toPoly_injective
  rw [toPoly_clmul, toPoly_clmul, mul_comm]

theorem clmul_assoc (a b c : Nat) : clmul (clmul a b) c = clmul a (clmul b c) := by
  apply toPoly_injective
  simp only [toPoly_clmul, mul_assoc]

theorem clmul_xor (a b c : Nat) : clmul a (b ^^^ c) = clmul a b ^^^ clmul a c := by
  apply toPoly_injective
  simp only [toPoly_clmul, toPoly_xor, mul_add]

theorem clmul_zero (a : Nat) : clmul a 0 = 0 := rfl

theorem zero_clmul (a : Nat) : clmul 0 a = 0 := (clmul_comm 0 a).trans (clmul_zero a)

theorem clmul_one (a : Nat) : clmul a 1 = a := by
  apply toPoly_injective
  rw [toPoly_clmul, toPoly_one, mul_one]

/-- Degrees add, because GF(2) has no zero divisors. -/
theorem deg_clmul {a b : Nat} (ha : a ≠ 0) (hb : b ≠ 0) : deg (clmul a b) = deg a + deg b := by
  have hab : clmul a b ≠ 0 := by
    rw [Ne, ← toPoly_eq_zero, toPoly_clmul]
    exact mul_ne_zero (toPoly_eq_zero.not.mpr ha) (toPoly_eq_zero.not.mpr hb)
  have hdegree : ((clmul a b).log2 : WithBot Nat) = (a.log2 + b.log2 : Nat) := by
    rw [← degree_toPoly hab, toPoly_clmul, Polynomial.degree_mul, degree_toPoly ha, degree_toPoly hb, Nat.cast_add]
  rw [deg_of_ne_zero hab, deg_of_ne_zero ha, deg_of_ne_zero hb, Nat.cast_inj.mp hdegree, Nat.cast_add]

theorem deg_clmul_mono (a : Nat) {b c : Nat} (h : deg b ≤ deg c) : deg (clmul a b) ≤ deg (clmul a c) := by
  rw [← degree_toPoly_le_degree_iff] at h ⊢
  rw [toPoly_clmul, toPoly_clmul, Polynomial.degree_mul, Polynomial.degree_mul]
  gcongr

theorem clmul_two_pow (a n : Nat) : clmul a (2 ^ n) = a <<< n := by
  apply toPoly_injective
  rw [toPoly_clmul, toPoly_two_pow, toPoly_shiftLeft]

theorem deg_shiftLeft {a : Nat} (ha : a ≠ 0) (n : Nat) : deg (a <<< n) = deg a + n := by
  rw [← clmul_two_pow, deg_clmul ha (by positivity), deg_of_ne_zero (a := 2 ^ n) (by positivity), Nat.log2_two_pow]

theorem clmul_lt_two_pow_127 {a b : Nat} (ha : a < 2 ^ 64) (hb : b < 2 ^ 64) : clmul a b < 2 ^ 127 := by
  by_cases ha0 : a = 0
  · simp [ha0, zero_clmul]
  by_cases hb0 : b = 0
  · simp [hb0, clmul_zero]
  rw [lt_two_pow_iff_deg_lt] at ha hb ⊢
  rw [deg_clmul ha0 hb0]
  omega

/-- Settles O29: each law is the one of the polynomial ring. -/
theorem carrylessProductLaws : Obligations.CarrylessProductLaws :=
  ⟨testBit_clmul, clmul_comm, clmul_assoc, clmul_xor, clmul_zero, clmul_one, fun _ _ => clmul_lt_two_pow_127,
    fun _ _ => deg_clmul⟩

end Sys2Proof.Machine
end

section
/-! The division of 41_gf2_arith.md R121 and R122 as the division of the ring of polynomials over GF(2). -/

namespace Sys2Proof.Machine

open Polynomial (X)

/-! ### One pass of the reduction loop (41_gf2_arith.md R121) -/

/-- The shifted divisor has the dividend's degree, so subtracting it clears the top bit. -/
theorem deg_xor_shiftLeft_lt {a b : Nat} (hb : b ≠ 0) (h : deg b ≤ deg a) :
    deg (a ^^^ (b <<< (deg a - deg b).toNat)) < deg a := by
  have ha : a ≠ 0 := deg_nonneg_iff.mp ((deg_nonneg_iff.mpr hb).trans h)
  have hshift : deg (b <<< (deg a - deg b).toNat) = deg a := by
    rw [deg_shiftLeft hb]
    omega
  have hb' : b <<< (deg a - deg b).toNat ≠ 0 := by simpa using hb
  have hdegree := degree_toPoly_eq_degree_iff.mpr hshift.symm
  rw [← degree_toPoly_lt_degree_iff, toPoly_xor_eq_sub]
  refine Polynomial.degree_sub_lt_left hdegree (toPoly_eq_zero.not.mpr ha) ?_
  rw [monic_toPoly ha, monic_toPoly hb']

/-- Setting a clear bit is adding it. -/
theorem toPoly_or_two_pow {q n : Nat} (h : q.testBit n = false) : toPoly (q ||| (1 <<< n)) = toPoly q + X ^ n := by
  have hxor : q ||| (1 <<< n) = q ^^^ 2 ^ n := by
    refine Nat.eq_of_testBit_eq fun i => ?_
    rw [Nat.one_shiftLeft, Nat.testBit_or, Nat.testBit_xor, Nat.testBit_two_pow]
    by_cases hi : n = i
    · simp [← hi, h]
    · simp [hi]
  rw [hxor, toPoly_xor, toPoly_two_pow]

/-- While the rest of the dividend is `a`, the bits that later passes will set in the quotient `q` are still clear, so
that R121's OR is an XOR. -/
def QuotientFree (a b q : Nat) : Prop := ∀ i : Nat, i + deg b ≤ deg a → q.testBit i = false

theorem QuotientFree.pass {a a' b q : Nat} (h : QuotientFree a b q) (ha' : deg a' < deg a) :
    QuotientFree a' b (q ||| (1 <<< (deg a - deg b).toNat)) := by
  intro i hi
  have hne : (deg a - deg b).toNat ≠ i := by omega
  rw [Nat.one_shiftLeft, Nat.testBit_or, h i (by omega), Nat.testBit_two_pow_of_ne hne, Bool.or_self]

/-- What the loop keeps, and where it ends: q * b + a is unchanged, and the rest is of smaller degree than b. -/
theorem reduceLoop_spec {b : Nat} (hb : b ≠ 0) (fuel a q : Nat) (hfuel : bitLength a ≤ fuel)
    (hq : QuotientFree a b q) :
    toPoly (reduceLoop b fuel a q).2 + toPoly b * toPoly (reduceLoop b fuel a q).1 = toPoly a + toPoly b * toPoly q ∧
      deg (reduceLoop b fuel a q).2 < deg b := by
  induction fuel generalizing a q with
  | zero =>
    have hdeg := deg_nonneg_iff.mpr hb
    have ha := deg_eq_bitLength_sub_one a
    exact ⟨rfl, show deg a < deg b by omega⟩
  | succ fuel ih =>
    rw [reduceLoop]
    split
    case isFalse h => exact ⟨rfl, not_le.mp h⟩
    case isTrue h =>
      have hpass := deg_xor_shiftLeft_lt hb h
      have hclear : q.testBit (deg a - deg b).toNat = false := hq _ (by omega)
      have hfuel' : bitLength (a ^^^ (b <<< (deg a - deg b).toNat)) ≤ fuel := by
        simp only [deg_eq_bitLength_sub_one] at hpass ⊢
        omega
      obtain ⟨hkeep, hend⟩ := ih _ _ hfuel' (hq.pass hpass)
      refine ⟨hkeep.trans ?_, hend⟩
      rw [toPoly_xor, toPoly_shiftLeft, toPoly_or_two_pow hclear]
      linear_combination (toPoly b * X ^ (deg a - deg b).toNat) * CharTwo.two_eq_zero (R := Polynomial (ZMod 2))

/-! ### Quotient and remainder -/

theorem toPoly_pdivrem (a b : Nat) :
    toPoly (pdivrem a b).1 = toPoly a / toPoly b ∧ toPoly (pdivrem a b).2 = toPoly a % toPoly b := by
  by_cases hb : b = 0
  · simp [pdivrem, hb]
  · obtain ⟨hkeep, hend⟩ := reduceLoop_spec hb (bitLength a) a 0 le_rfl fun i _ => Nat.zero_testBit i
    rw [pdivrem, if_neg hb]
    have hmonic := monic_toPoly hb
    rw [← Polynomial.divByMonic_eq_div _ hmonic, ← Polynomial.modByMonic_eq_mod _ hmonic]
    obtain ⟨hquot, hrem⟩ := Polynomial.div_modByMonic_unique _ _ hmonic
      ⟨by simpa using hkeep, degree_toPoly_lt_degree_iff.mpr hend⟩
    exact ⟨hquot.symm, hrem.symm⟩

@[simp] theorem toPoly_pdiv (a b : Nat) : toPoly (pdiv a b) = toPoly a / toPoly b := (toPoly_pdivrem a b).1

@[simp] theorem toPoly_prem (a b : Nat) : toPoly (prem a b) = toPoly a % toPoly b := (toPoly_pdivrem a b).2

/-- A remainder as the old one less a multiple of the divisor. -/
theorem toPoly_prem_eq_sub (a b : Nat) : toPoly (prem a b) = toPoly a - toPoly (pdiv a b) * toPoly b := by
  rw [toPoly_prem, toPoly_pdiv, EuclideanDomain.mod_eq_sub_mul_div, mul_comm]

/-- The division identity (41_gf2_arith.md R126 (a)). -/
theorem clmul_pdiv_xor_prem (a b : Nat) : clmul (pdiv a b) b ^^^ prem a b = a := by
  apply toPoly_injective
  simp only [toPoly_xor, toPoly_clmul, toPoly_pdiv, toPoly_prem]
  exact EuclideanDomain.div_add_mod' _ _

/-- The remainder as a Euclidean step computes it (41_gf2_arith.md R123). -/
theorem xor_clmul_pdiv (a b : Nat) : a ^^^ clmul (pdiv a b) b = prem a b := by
  nth_rw 1 [← clmul_pdiv_xor_prem a b]
  rw [Nat.xor_comm, ← Nat.xor_assoc, Nat.xor_self, Nat.zero_xor]

theorem deg_prem_lt (a : Nat) {b : Nat} (hb : b ≠ 0) : deg (prem a b) < deg b := by
  rw [← degree_toPoly_lt_degree_iff, toPoly_prem]
  exact Polynomial.degree_mod_lt _ (toPoly_eq_zero.not.mpr hb)

theorem deg_pdiv_le (a b : Nat) : deg (pdiv a b) ≤ deg a := by
  rw [← degree_toPoly_le_degree_iff, toPoly_pdiv]
  exact Polynomial.degree_div_le _ _

theorem pdiv_prem_unique {a b q r : Nat} (hb : b ≠ 0) (h : clmul q b ^^^ r = a) (hr : deg r < deg b) :
    q = pdiv a b ∧ r = prem a b := by
  have hmonic := monic_toPoly hb
  have hsum : toPoly r + toPoly b * toPoly q = toPoly a := by
    rw [← h, toPoly_xor, toPoly_clmul]
    ring
  obtain ⟨hquot, hrem⟩ := Polynomial.div_modByMonic_unique _ _ hmonic ⟨hsum, degree_toPoly_lt_degree_iff.mpr hr⟩
  rw [Polynomial.divByMonic_eq_div _ hmonic, ← toPoly_pdiv, toPoly_inj] at hquot
  rw [Polynomial.modByMonic_eq_mod _ hmonic, ← toPoly_prem, toPoly_inj] at hrem
  exact ⟨hquot.symm, hrem.symm⟩

theorem pdiv_zero (a : Nat) : pdiv a 0 = 0 := rfl

theorem prem_zero (a : Nat) : prem a 0 = a := rfl

/-- A polynomial of smaller degree than the divisor is its own remainder. -/
theorem pdiv_prem_of_deg_lt {a b : Nat} (h : deg a < deg b) : pdiv a b = 0 ∧ prem a b = a := by
  have hb : b ≠ 0 := deg_nonneg_iff.mp (by have := neg_one_le_deg a; omega)
  obtain ⟨hquot, hrem⟩ := pdiv_prem_unique (q := 0) hb (by rw [zero_clmul, Nat.zero_xor]) h
  exact ⟨hquot.symm, hrem.symm⟩

theorem deg_prem_le (a b : Nat) : deg (prem a b) ≤ deg a := by
  by_cases hb : b = 0
  · rw [hb, prem_zero]
  by_cases h : deg a < deg b
  · rw [(pdiv_prem_of_deg_lt h).2]
  · exact ((deg_prem_lt a hb).trans_le (not_lt.mp h)).le

/-- Remainders agree exactly when the modulus divides the difference. -/
theorem prem_eq_prem_iff {a b m : Nat} : prem a m = prem b m ↔ toPoly m ∣ toPoly a - toPoly b := by
  rw [← toPoly_inj, toPoly_prem, toPoly_prem, ← sub_eq_zero, ← Polynomial.sub_mod, EuclideanDomain.mod_eq_zero]

/-- Settles O31: the loop's result is the quotient and remainder of the polynomial ring. -/
theorem divisionWithRemainder : Obligations.DivisionWithRemainder :=
  ⟨fun a => ⟨pdiv_zero a, prem_zero a⟩, clmul_pdiv_xor_prem, fun a _ => deg_prem_lt a,
    fun _ _ _ _ => pdiv_prem_unique⟩

/-! ### The masked remainder (41_gf2_arith.md R122) -/

theorem maskBits_eq_mod (n v : Nat) : maskBits n v = v % 2 ^ n := Nat.and_two_pow_sub_one_eq_mod v n

theorem pmod_eq_prem_iff {a b n : Nat} : pmod a b n = prem a b ↔ bitLength (prem a b) ≤ n := by
  rw [pmod, maskBits_eq_mod, Nat.mod_eq_iff_lt (by positivity), lt_two_pow_iff_bitLength_le]

/-- The masked identity holds exactly when the mask keeps the whole remainder. -/
theorem clmul_pdiv_xor_pmod_iff (a b n : Nat) : clmul (pdiv a b) b ^^^ pmod a b n = a ↔ bitLength (prem a b) ≤ n := by
  rw [← pmod_eq_prem_iff]
  nth_rw 3 [← clmul_pdiv_xor_prem a b]
  exact Nat.xor_right_inj

/-- Settles O32: a mask of deg(b) bits keeps every remainder, which is of smaller degree. -/
theorem maskedDivisionIdentityCondition : Obligations.MaskedDivisionIdentityCondition := by
  refine ⟨clmul_pdiv_xor_pmod_iff, fun a b n hb hn => (clmul_pdiv_xor_pmod_iff a b n).mpr ?_⟩
  have hdeg := deg_prem_lt a hb
  rw [deg_eq_bitLength_sub_one (prem a b)] at hdeg
  omega

end Sys2Proof.Machine
end

section
/-! The inverses of 41_gf2_arith.md R123 and R124: the extended Euclidean loop keeps the ideal of its two remainders, the
congruences of its two cofactors, and the bound on their degrees. -/

namespace Sys2Proof.Machine

/-! ### The Euclidean loop (41_gf2_arith.md R123) -/

theorem euclidLoop_zero (fuel r0 s0 s1 : Nat) : euclidLoop fuel r0 0 s0 s1 = (r0, s0) := by
  cases fuel <;> rfl

theorem euclidLoop_succ (fuel r0 : Nat) {r1 : Nat} (h : r1 ≠ 0) (s0 s1 : Nat) :
    euclidLoop (fuel + 1) r0 r1 s0 s1 =
      euclidLoop fuel r1 (prem r0 r1) s1 (s0 ^^^ clmul (pdiv r0 r1) s1) := by
  simp only [euclidLoop, if_neg h, xor_clmul_pdiv]

/-- The induction over the loop: what every pass keeps holds at its end, where the second remainder is 0. Each pass
lowers the degree of `r1`, so `bitLength r1` passes are enough. -/
theorem euclidLoop_induction {inv : Nat → Nat → Nat → Nat → Prop}
    (hpass : ∀ r0 r1 s0 s1, r1 ≠ 0 → inv r0 r1 s0 s1 → inv r1 (prem r0 r1) s1 (s0 ^^^ clmul (pdiv r0 r1) s1))
    (fuel r0 r1 s0 s1 : Nat) (hfuel : bitLength r1 ≤ fuel) (h : inv r0 r1 s0 s1) :
    ∃ s, inv (euclidLoop fuel r0 r1 s0 s1).1 0 (euclidLoop fuel r0 r1 s0 s1).2 s := by
  induction fuel generalizing r0 r1 s0 s1 with
  | zero =>
    obtain rfl : r1 = 0 := Nat.lt_one_iff.mp (lt_two_pow_iff_bitLength_le.mpr hfuel)
    exact ⟨s1, h⟩
  | succ fuel ih =>
    by_cases hr : r1 = 0
    · subst hr
      rw [euclidLoop_zero]
      exact ⟨s1, h⟩
    · have hdeg := deg_prem_lt r0 hr
      rw [euclidLoop_succ fuel r0 hr]
      refine ih _ _ _ _ ?_ (hpass r0 r1 s0 s1 hr h)
      simp only [deg_eq_bitLength_sub_one] at hdeg
      omega

/-- What a run on a modulo m keeps of the remainders `r0`, `r1` and their cofactors `s0`, `s1` (R123): the remainders
are coprime exactly when m and a are, and each is its cofactor times a modulo m. -/
structure EuclidRun (a m r0 r1 s0 s1 : Nat) : Prop where
  coprime : IsCoprime (toPoly r0) (toPoly r1) ↔ IsCoprime (toPoly m) (toPoly a)
  cofactor0 : toPoly m ∣ toPoly s0 * toPoly a - toPoly r0
  cofactor1 : toPoly m ∣ toPoly s1 * toPoly a - toPoly r1

theorem EuclidRun.start (a m : Nat) : EuclidRun a m m a 0 1 := by
  constructor <;> simp

theorem EuclidRun.pass {a m r0 r1 s0 s1 : Nat} (h : EuclidRun a m r0 r1 s0 s1) :
    EuclidRun a m r1 (prem r0 r1) s1 (s0 ^^^ clmul (pdiv r0 r1) s1) where
  coprime := by
    rw [← h.coprime, toPoly_prem_eq_sub, IsCoprime.sub_mul_right_right_iff, isCoprime_comm]
  cofactor0 := h.cofactor1
  cofactor1 := by
    have hcombine := h.cofactor0.sub (h.cofactor1.mul_left (toPoly (pdiv r0 r1)))
    rw [toPoly_prem_eq_sub, toPoly_xor_eq_sub, toPoly_clmul]
    convert hcombine using 1
    ring

/-- The degrees during a run modulo m (R123, R125): each cofactor times the other remainder stays within m's degree, and
while the run goes on the first remainder is no constant, which keeps the first cofactor below m. -/
structure CofactorsBounded (m r0 r1 s0 s1 : Nat) : Prop where
  cross0 : deg (clmul s0 r1) ≤ deg m
  cross1 : deg (clmul s1 r0) ≤ deg m
  running : r1 ≠ 0 → 0 < deg r0
  below : deg s0 < deg m

theorem CofactorsBounded.start {m : Nat} (a : Nat) (hm : 1 ≤ deg m) : CofactorsBounded m m a 0 1 where
  cross0 := by
    rw [zero_clmul]
    exact neg_one_le_deg m
  cross1 := by rw [clmul_comm, clmul_one]
  running _ := hm
  below := show -1 < deg m by omega

/-- The new second cofactor times the old divisor, from the products before the pass. -/
theorem clmul_next_cofactor (r0 r1 s0 s1 : Nat) : clmul (s0 ^^^ clmul (pdiv r0 r1) s1) r1 =
    clmul s0 r1 ^^^ (clmul s1 r0 ^^^ clmul s1 (prem r0 r1)) := by
  apply toPoly_injective
  simp only [toPoly_clmul, toPoly_xor_eq_sub, toPoly_prem_eq_sub]
  ring

theorem CofactorsBounded.pass {m r0 r1 s0 s1 : Nat} (h : CofactorsBounded m r0 r1 s0 s1) (hr : r1 ≠ 0) :
    CofactorsBounded m r1 (prem r0 r1) s1 (s0 ^^^ clmul (pdiv r0 r1) s1) where
  cross0 := (deg_clmul_mono s1 (deg_prem_le r0 r1)).trans h.cross1
  cross1 := by
    rw [clmul_next_cofactor]
    exact deg_xor_le h.cross0 (deg_xor_le h.cross1 ((deg_clmul_mono s1 (deg_prem_le r0 r1)).trans h.cross1))
  running hrem := (deg_nonneg_iff.mpr hrem).trans_lt (deg_prem_lt r0 hr)
  below := by
    have hpos := h.running hr
    by_cases hs : s1 = 0
    · exact hs ▸ (neg_one_le_deg s0).trans_lt h.below
    · have hcross := h.cross1
      rw [deg_clmul hs (deg_nonneg_iff.mp hpos.le)] at hcross
      omega

/-! ### The inverse (41_gf2_arith.md R123) -/

/-- A run of the algorithm and its answer: the last remainder decides, its cofactor is the value. -/
theorem pinv_run {a : Nat} (m : Nat) (ha : a ≠ 0) :
    ∃ r v s, pinv a m = (if r = 1 then some v else none) ∧ EuclidRun a m r 0 v s ∧
      (1 ≤ deg m → CofactorsBounded m r 0 v s) := by
  obtain ⟨s, hrun, hbound⟩ := euclidLoop_induction
    (inv := fun r0 r1 s0 s1 => EuclidRun a m r0 r1 s0 s1 ∧ (1 ≤ deg m → CofactorsBounded m r0 r1 s0 s1))
    (fun _ _ _ _ hr h => ⟨h.1.pass, fun hm => (h.2 hm).pass hr⟩)
    (bitLength a) m a 0 1 le_rfl ⟨.start a m, .start a⟩
  exact ⟨_, _, s, by rw [pinv, if_neg ha], hrun, hbound⟩

theorem EuclidRun.coprime_iff_eq_one {a m r s0 s1 : Nat} (h : EuclidRun a m r 0 s0 s1) :
    IsCoprime (toPoly m) (toPoly a) ↔ r = 1 := by
  rw [← h.coprime, toPoly_zero, isCoprime_zero_right, isUnit_toPoly_iff]

theorem pinv_zero (m : Nat) : pinv 0 m = none := rfl

/-- Where an inverse exists, the algorithm finds it. -/
theorem pinv_eq_none_iff {a m : Nat} : pinv a m = none ↔ a = 0 ∨ ¬ IsCoprime (toPoly m) (toPoly a) := by
  by_cases ha : a = 0
  · simp [ha, pinv_zero]
  · obtain ⟨r, v, s, hpinv, hrun, _⟩ := pinv_run m ha
    rw [hpinv, hrun.coprime_iff_eq_one]
    simp [ha]

theorem pinv_some_run {a m v : Nat} (h : pinv a m = some v) :
    ∃ s, EuclidRun a m 1 0 v s ∧ (1 ≤ deg m → CofactorsBounded m 1 0 v s) := by
  have ha : a ≠ 0 := by
    rintro rfl
    cases h
  obtain ⟨r, v', s, hpinv, hrun, hbound⟩ := pinv_run m ha
  rw [hpinv] at h
  split at h
  next hr =>
    cases h
    exact ⟨s, hr ▸ hrun, hr ▸ hbound⟩
  next => cases h

theorem dvd_of_pinv {a m v : Nat} (h : pinv a m = some v) : toPoly m ∣ toPoly v * toPoly a - 1 := by
  obtain ⟨s, hrun, _⟩ := pinv_some_run h
  simpa using hrun.cofactor0

theorem prem_clmul_of_pinv {a m v : Nat} (h : pinv a m = some v) : prem (clmul a v) m = prem 1 m := by
  rw [prem_eq_prem_iff, toPoly_clmul, toPoly_one, mul_comm]
  exact dvd_of_pinv h

theorem deg_lt_of_pinv {a m v : Nat} (h : pinv a m = some v) (hm : 1 ≤ deg m) : deg v < deg m := by
  obtain ⟨s, _, hbound⟩ := pinv_some_run h
  exact (hbound hm).below

/-- Settles O34: the cofactor of the last remainder 1 is the inverse, and the bound on cofactors is its width. -/
theorem returnedInverseIsAnInverse : Obligations.ReturnedInverseIsAnInverse := by
  refine ⟨fun a m v => prem_clmul_of_pinv, fun a m v h hm => ⟨?_, deg_lt_of_pinv h hm⟩⟩
  exact (prem_clmul_of_pinv h).trans (pdiv_prem_of_deg_lt (show deg 1 < deg m from hm)).2

/-- Coprime polynomials are those with a Bezout pair of numbers. -/
theorem isCoprime_toPoly_iff {a m : Nat} :
    IsCoprime (toPoly m) (toPoly a) ↔ ∃ u w : Nat, clmul a u ^^^ clmul m w = 1 := by
  have hbezout (u w : Nat) : clmul a u ^^^ clmul m w = 1 ↔ toPoly w * toPoly m + toPoly u * toPoly a = 1 := by
    rw [← toPoly_inj, toPoly_xor, toPoly_clmul, toPoly_clmul, toPoly_one, add_comm, mul_comm (toPoly m),
      mul_comm (toPoly a)]
  simp only [hbezout, IsCoprime, toPoly_surjective.exists]
  exact exists_comm

theorem pinv_modulus_zero (a : Nat) : pinv a 0 = if a = 1 then some 1 else none := by
  split
  next h => subst h; decide +kernel
  next h =>
    rw [pinv_eq_none_iff, toPoly_zero, isCoprime_zero_left, isUnit_toPoly_iff]
    exact .inr h

theorem pinv_one_one : pinv 1 1 = some 1 := by decide +kernel

theorem pinv_modulus_one {a : Nat} (ha : 1 ≤ deg a) : pinv a 1 = some 0 := by
  have ha0 : a ≠ 0 := deg_nonneg_iff.mp (by omega)
  obtain ⟨n, hn⟩ : ∃ n, bitLength a = n + 2 := ⟨bitLength a - 2, by have := deg_eq_bitLength_sub_one a; omega⟩
  obtain ⟨hquot, hrem⟩ : pdiv 1 a = 0 ∧ prem 1 a = 1 := pdiv_prem_of_deg_lt ha
  have hlast : prem a 1 = 0 := by
    have hdeg : deg (prem a 1) < 0 := deg_prem_lt a one_ne_zero
    by_contra h
    exact absurd (deg_nonneg_iff.mpr h) (not_le.mpr hdeg)
  have hloop : euclidLoop (bitLength a) 1 a 0 1 = (1, 0) := by
    rw [hn, euclidLoop_succ _ _ ha0, hquot, hrem, zero_clmul, euclidLoop_succ _ _ one_ne_zero, hlast, euclidLoop_zero]
    rfl
  rw [pinv, if_neg ha0, hloop]
  rfl

/-- Settles O35: the algorithm fails exactly without a Bezout pair, and the small moduli are runs of two passes. -/
theorem inverseIsFoundExactlyWhenThereIsOne : Obligations.InverseIsFoundExactlyWhenThereIsOne := by
  refine ⟨fun a m => ?_, pinv_modulus_zero, pinv_one_one, fun a => pinv_modulus_one⟩
  rw [pinv_eq_none_iff, isCoprime_toPoly_iff]

/-! ### Division by x^32 (41_gf2_arith.md R124) -/

theorem isCoprime_x32_iff {poly : Nat} : IsCoprime (toPoly poly) (toPoly x32) ↔ poly % 2 = 1 := by
  rw [x32, toPoly_two_pow, IsCoprime.pow_right_iff (by decide), isCoprime_comm,
    Polynomial.irreducible_X.coprime_iff_not_dvd, Polynomial.X_dvd_iff, coeff_toPoly, Nat.testBit_zero]
  simp

theorem pdivx32_eq_none_iff {k poly : Nat} : pdivx32 k poly = none ↔ poly % 2 = 0 := by
  rw [pdivx32, Option.map_eq_none_iff, pinv_eq_none_iff, isCoprime_x32_iff]
  simp [x32]

/-- The value of a division that succeeds: it times x^32 is k again, fully reduced (R126 (e)). -/
theorem pdivx32_spec {k poly v : Nat} (h : pdivx32 k poly = some v) :
    prem (clmul v (2 ^ 32)) poly = prem k poly ∧ deg v < deg poly := by
  have hpoly : poly ≠ 0 := by
    rintro rfl
    cases (pdivx32_eq_none_iff (k := k) (poly := 0)).mpr rfl ▸ h
  obtain ⟨inv, hinv, rfl⟩ := Option.map_eq_some_iff.mp h
  refine ⟨?_, deg_prem_lt _ hpoly⟩
  have hdvd := dvd_of_pinv hinv
  rw [prem_eq_prem_iff, toPoly_clmul, toPoly_prem_eq_sub, toPoly_clmul, ← x32]
  convert (hdvd.mul_left (toPoly k)).sub
    (dvd_mul_left (toPoly poly) (toPoly (pdiv (clmul k inv) poly) * toPoly x32)) using 1
  ring

theorem pdivx32_unique {k poly v : Nat} (hodd : poly % 2 = 1) (hv : prem (clmul v (2 ^ 32)) poly = prem k poly)
    (hdeg : deg v < deg poly) : pdivx32 k poly = some v := by
  cases hw : pdivx32 k poly with
  | none =>
    have := pdivx32_eq_none_iff.mp hw
    omega
  | some w =>
    obtain ⟨hw', hwdeg⟩ := pdivx32_spec hw
    have hdvd : toPoly poly ∣ (toPoly w - toPoly v) * toPoly x32 := by
      rw [sub_mul, x32, ← toPoly_clmul, ← toPoly_clmul, ← prem_eq_prem_iff, hw', hv]
    have hsame := prem_eq_prem_iff.mpr ((isCoprime_x32_iff.mpr hodd).dvd_of_dvd_mul_right hdvd)
    rw [(pdiv_prem_of_deg_lt hwdeg).2, (pdiv_prem_of_deg_lt hdeg).2] at hsame
    rw [hsame]

theorem pdivx32_generator (k : Nat) : ∃ v, pdivx32 k 0x104C11DB7 = some v ∧ v < 2 ^ 32 := by
  cases hv : pdivx32 k 0x104C11DB7 with
  | none => cases pdivx32_eq_none_iff.mp hv
  | some v =>
    refine ⟨v, rfl, ?_⟩
    rw [lt_two_pow_iff_deg_lt]
    exact (pdivx32_spec hv).2

/-- Settles O36: x^32 and the modulus are coprime exactly when the modulus is odd, and then x^32 cancels. -/
theorem divisionByX32Law : Obligations.DivisionByX32Law :=
  ⟨fun _ _ => pdivx32_eq_none_iff, fun _ _ _ => pdivx32_spec, fun _ _ _ => pdivx32_unique, pdivx32_generator,
    by decide +kernel⟩

/-! ### Widths (41_gf2_arith.md R125) -/

/-- A modulus of degree below 1 is 0 or 1, and so is a value modulo it. -/
theorem pinv_small_modulus {a m v : Nat} (h : pinv a m = some v) (hm : deg m < 1) : v = 0 ∨ v = 1 := by
  have hm' : m < 2 ^ 1 := lt_two_pow_iff_deg_lt.mpr hm
  obtain rfl | rfl : m = 0 ∨ m = 1 := by omega
  · rw [pinv_modulus_zero] at h
    split at h <;> cases h
    exact .inr rfl
  · by_cases ha : 1 ≤ deg a
    · cases (pinv_modulus_one ha).symm.trans h
      exact .inl rfl
    · have ha' : a < 2 ^ 1 := lt_two_pow_iff_deg_lt.mpr (not_le.mp ha)
      obtain rfl | rfl : a = 0 ∨ a = 1 := by omega
      · cases h
      · cases pinv_one_one.symm.trans h
        exact .inr rfl

/-- Settles O39: a quotient stays within its dividend's degree, and whatever is reduced stays below its modulus. -/
theorem resultsFitTheirWidths : Obligations.ResultsFitTheirWidths := by
  intro a b ha hb
  refine ⟨lt_two_pow_of_deg_le (deg_pdiv_le a b) ha, lt_two_pow_of_deg_le (deg_prem_le a b) ha, fun v hv => ?_,
    fun v hv _ => lt_two_pow_of_deg_lt (pdivx32_spec hv).2 hb⟩
  exact ⟨fun hdeg => lt_two_pow_of_deg_lt (deg_lt_of_pinv hv hdeg) hb, pinv_small_modulus hv⟩

end Sys2Proof.Machine
end

section
/-! The seven instructions of 41_gf2_arith.md R130 to R136: their encodings from the decoder's rows, their results from
the laws of the functions they apply. -/

namespace Sys2Proof

open Machine

/-! ### Encodings (30_encoding.md R101) -/

/-- A word that matches a row has the row's opcode. -/
theorem opcodeOf_of_match {op : BitVec 6} {r : Row} {w : Word32} (hrow : rowOf op = some r) (hne : op ≠ 0x1D)
    (h : w &&& r.mask = r.mtch) : opcodeOf w = op := by
  obtain ⟨hmtch, hself⟩ := rowOf_mtch op hne r hrow
  have hfield := (and_eq_iff (rowOf_mask op r hrow) hself).mp h (26, 6) List.mem_cons_self
  rw [hmtch] at hfield
  exact hfield.trans (opcodeOf_formatN op)

/-- The words of a row without a condition. -/
theorem encodes_of_plainRow {op : BitVec 6} {mask mtch : Word32} {instr : Word32 → Instr}
    (hrow : rowOf op = some (plainRow mask mtch instr)) (hne : op ≠ 0x1D) : Encodes mask mtch instr :=
  fun _ h => decode_of_match (opcodeOf_of_match hrow hne h) hrow h

/-- A word matching the opcode bits alone. -/
theorem opcodeOf_eq_of_and {w mtch : Word32} (hmtch : mtch &&& 0xFC000000 = mtch) (h : w &&& 0xFC000000 = mtch) :
    opcodeOf w = opcodeOf mtch :=
  (and_eq_iff (fs := [(26, 6)]) (by decide) hmtch).mp h (26, 6) List.mem_cons_self

theorem decode_gfmod {w : Word32} (h : w &&& 0xFC003C00 = 0xCC000000) (hn : maskWidthOk (imm10Of w)) :
    decode w = .ok (.gfmod (fieldA w) (fieldB w) (fieldC w) (imm10Of w)) := by
  have hfields := (and_eq_iff (fs := [(26, 6), (10, 4)]) (by decide) (by decide)).mp h
  have hop : opcodeOf w = 0x33 := hfields (26, 6) (by simp)
  have hd : fieldD w = 0 := hfields (10, 4) (by simp)
  exact decode_of_encode_eq (decide_eq_true hn) (formatR_of_fields hop rfl rfl rfl hd rfl)

theorem decode_gfmulmod {w : Word32} (h : w &&& 0xFC000000 = 0xD0000000) (hn : maskWidthOk (imm10Of w)) :
    decode w = .ok (.gfmulmod (fieldA w) (fieldB w) (fieldC w) (fieldD w) (imm10Of w)) :=
  decode_of_encode_eq (decide_eq_true hn)
    (formatR_of_fields (opcodeOf_eq_of_and (by decide) h) rfl rfl rfl rfl rfl)

/-- A mask width above 64 is illegal for GFMOD and GFMULMOD (30_encoding.md R102 (c)). -/
theorem illegalWord_of_maskWidth {w : Word32} (h : w &&& 0xFC000000 = 0xCC000000 ∨ w &&& 0xFC000000 = 0xD0000000)
    (hn : 64 < (imm10Of w).toNat) : IllegalWord w := by
  have hop : opcodeOf w = 0x33 ∨ opcodeOf w = 0x34 :=
    h.imp (opcodeOf_eq_of_and (by decide)) (opcodeOf_eq_of_and (by decide))
  exact (illegalWord_iff_maskWidth hop).mpr fun ⟨_, hok⟩ => absurd hok (not_le.mpr hn)

namespace Machine

variable (s : State)

/-! ### Writing a value (10_state.md R32) -/

theorem getLsbD_toWord (v : Nat) {k : Nat} (hk : k < 64) : (toWord v).getLsbD k = v.testBit k := by
  rw [toWord, BitVec.getLsbD_ofNat, decide_eq_true hk, Bool.true_and]

theorem toNat_toWord {v : Nat} (h : v < 2 ^ 64) : (toWord v).toNat = v := by
  rw [toWord, BitVec.toNat_ofNat, Nat.mod_eq_of_lt h]

/-- `finish` with a value that fits 64 bits writes that value. -/
theorem State.finish_toWord_spec (rd : RegNum) {v : Nat} (h : v < 2 ^ 64) :
    ∃ t w, s.finish rd (toWord v) = .next t ∧ RegResult s t rd w ∧ w.toNat = v := by
  obtain ⟨t, hnext, hres⟩ := s.finish_spec rd (toWord v)
  exact ⟨t, toWord v, hnext, hres, toNat_toWord h⟩

/-! ### Products (41_gf2_arith.md R130, R131) -/

/-- Settles O30: both halves are bits of the product, which `testBit_clmul` counts. -/
theorem carrylessMultiplyInstructions : Obligations.CarrylessMultiplyInstructions := by
  refine ⟨encodes_of_plainRow (op := 0x30) rfl (by decide), encodes_of_plainRow (op := 0x31) rfl (by decide),
    fun s rd rs1 rs2 => ⟨?_, ?_⟩⟩
  · obtain ⟨t, hnext, hres⟩ := s.finish_spec rd (toWord (clmul (s.x rs1).toNat (s.x rs2).toNat))
    refine ⟨t, _, hnext, hres, fun k hk => ?_⟩
    rw [getLsbD_toWord _ hk, testBit_clmul]
  · obtain ⟨t, hnext, hres⟩ := s.finish_spec rd (toWord (clmul (s.x rs1).toNat (s.x rs2).toNat >>> 64))
    refine ⟨t, _, hnext, hres, fun k hk => ?_⟩
    rw [getLsbD_toWord _ hk, Nat.testBit_shiftRight, testBit_clmul, Nat.add_comm]

/-! ### Quotients and remainders (41_gf2_arith.md R132 to R134) -/

theorem pmod_lt {a b n : Nat} (hn : n ≤ 64) : pmod a b n < 2 ^ 64 := by
  rw [pmod, maskBits_eq_mod]
  exact (Nat.mod_lt _ (by positivity)).trans_le (Nat.pow_le_pow_right two_pos hn)

/-- Settles O33: each result fits 64 bits, a quotient by its dividend and a remainder by its mask. -/
theorem divideAndReduceInstructions : Obligations.DivideAndReduceInstructions := by
  refine ⟨encodes_of_plainRow (op := 0x32) rfl (by decide), fun w => decode_gfmod, fun w => decode_gfmulmod,
    fun w => illegalWord_of_maskWidth, fun s rd rs1 rs2 rs3 n hn => ?_⟩
  simp only [← maskBits_eq_mod]
  refine ⟨s.finish_toWord_spec rd ?_, s.finish_toWord_spec rd (pmod_lt hn), s.finish_toWord_spec rd (pmod_lt hn)⟩
  exact lt_two_pow_of_deg_le (deg_pdiv_le _ _) (s.x rs1).isLt

/-! ### Inverses (41_gf2_arith.md R135, R136) -/

/-- Every inverse fits 64 bits (R125). -/
theorem pinv_lt {a m v : Nat} (hm : m < 2 ^ 64) (h : pinv a m = some v) : v < 2 ^ 64 := by
  by_cases hdeg : 1 ≤ deg m
  · exact lt_two_pow_of_deg_le (deg_lt_of_pinv h hdeg).le hm
  · obtain rfl | rfl := pinv_small_modulus h (not_le.mp hdeg) <;> decide

theorem exec_gfinv_of_some {s : State} {rs1 rs2 : RegNum} {v : Nat}
    (h : pinv (s.x rs1).toNat (s.x rs2).toNat = some v) (rd : RegNum) :
    exec (.gfinv rd rs1 rs2) s = s.finish rd (toWord v) := by
  simp only [exec, execGfinv, h]

theorem exec_gfinv_of_none {s : State} {rs1 rs2 : RegNum} (h : pinv (s.x rs1).toNat (s.x rs2).toNat = none)
    (rd : RegNum) : exec (.gfinv rd rs1 rs2) s = s.raise .domainError (s.x rs1) (s.x rs2) := by
  simp only [exec, execGfinv, h]

/-- Settles O37: the instruction follows `pinv`, whose value fits. -/
theorem modularInverseInstruction : Obligations.ModularInverseInstruction := by
  refine ⟨encodes_of_plainRow (op := 0x35) rfl (by decide), fun s rd rs1 rs2 => ⟨fun v hv => ?_, fun hnone => ?_⟩⟩
  · rw [exec_gfinv_of_some hv]
    exact s.finish_toWord_spec rd (pinv_lt (s.x rs2).isLt hv)
  · rw [exec_gfinv_of_none hnone]
    exact s.raise_spec ..

theorem exec_gfdivx32_of_some {s : State} {rs1 rs2 : RegNum} {v : Nat}
    (h : pdivx32 (s.x rs1).toNat (s.x rs2).toNat = some v) (rd : RegNum) :
    exec (.gfdivx32 rd rs1 rs2) s = s.finish rd (toWord v) := by
  simp only [exec, execGfdivx32, h]

theorem exec_gfdivx32_of_none {s : State} {rs1 rs2 : RegNum} (h : pdivx32 (s.x rs1).toNat (s.x rs2).toNat = none)
    (rd : RegNum) : exec (.gfdivx32 rd rs1 rs2) s = s.raise .domainError (toWord x32) (s.x rs2) := by
  simp only [exec, execGfdivx32, h]

/-- Settles O38: the instruction follows `pdivx32`, which fails exactly for an even modulus. -/
theorem divideByX32Instruction : Obligations.DivideByX32Instruction := by
  refine ⟨encodes_of_plainRow (op := 0x36) rfl (by decide), fun s rd rs1 rs2 => ?_⟩
  cases hv : pdivx32 (s.x rs1).toNat (s.x rs2).toNat with
  | none =>
    have heven := pdivx32_eq_none_iff.mp hv
    rw [if_neg (by omega), exec_gfdivx32_of_none hv]
    exact s.raise_spec ..
  | some v =>
    have hodd : (s.x rs2).toNat % 2 = 1 := by
      by_contra h
      cases (pdivx32_eq_none_iff.mpr (Nat.mod_two_ne_one.mp h)).symm.trans hv
    obtain ⟨hdiv, hdeg⟩ := pdivx32_spec hv
    obtain ⟨t, w, hnext, hres, rfl⟩ := s.finish_toWord_spec rd (lt_two_pow_of_deg_le hdeg.le (s.x rs2).isLt)
    rw [if_pos hodd, exec_gfdivx32_of_some hv]
    exact ⟨t, w, hnext, hres, hv, hdiv, hdeg⟩

end Machine

end Sys2Proof
end

section
/-! The reflections of 43_reflection.md, whole-word and bytewise, and the message polynomial of 42_crc32.md R163 (b),
which reflects each byte. -/

namespace Sys2Proof.Machine

/-! ### Whole words (00_scope.md R14) -/

@[simp] theorem rev_rev {w : Nat} (v : BitVec w) : rev (rev v) = v := BitVec.reverse_reverse_eq

theorem toNat_rev_zero (w : Nat) : (rev (0 : BitVec w)).toNat = 0 := by
  have hzero : rev (0#w) = 0#w := BitVec.reverse_eq_zero_iff.mpr rfl
  exact (congrArg BitVec.toNat hzero).trans BitVec.toNat_zero

/-! ### Four bytes (43_reflection.md R191) -/

theorem beU_of_four (a b c d : Byte) : beU [a, b, c, d] = (a ++ b ++ c ++ d).toNat := by
  rw [BitVec.toNat_append, BitVec.toNat_append, BitVec.toNat_append,
    ← Nat.shiftLeft_add_eq_or_of_lt d.isLt, ← Nat.shiftLeft_add_eq_or_of_lt c.isLt,
    ← Nat.shiftLeft_add_eq_or_of_lt b.isLt]
  simp only [beU_cons, beU_nil, Nat.shiftLeft_eq, List.length_cons, List.length_nil]
  ring

theorem setWidth_append_byte {m n : Nat} (v : BitVec n) (b : Byte) : (v ++ b).setWidth (m + 8) = v.setWidth m ++ b := by
  rw [BitVec.setWidth_append_of_eq rfl, BitVec.setWidth_eq]

/-- Of the eight lanes of BREV8, the four low ones. -/
theorem brev8w_eq_append (v : Word32) : brev8w v =
    rev (v.extractLsb' 24 8) ++ rev (v.extractLsb' 16 8) ++ rev (v.extractLsb' 8 8) ++ rev (v.extractLsb' 0 8) := by
  unfold brev8w brev8
  change BitVec.setWidth (8 + 8 + 8 + 8) _ = _
  rw [setWidth_append_byte, setWidth_append_byte, setWidth_append_byte, BitVec.setWidth_append_eq_right]
  simp only [BitVec.extractLsb'_setWidth_of_le, Nat.reduceAdd, Nat.reduceLeDiff]

theorem brev8w_append (a b c d : Byte) : brev8w (a ++ b ++ c ++ d) = rev a ++ rev b ++ rev c ++ rev d := by
  have ha : (a ++ b ++ c ++ d : Word32).extractLsb' 24 8 = a := by
    rw [BitVec.extractLsb'_append_eq_of_le (by decide), BitVec.extractLsb'_append_eq_of_le (by decide)]
    exact BitVec.extractLsb'_append_eq_left
  have hb : (a ++ b ++ c ++ d : Word32).extractLsb' 16 8 = b := by
    rw [BitVec.extractLsb'_append_eq_of_le (by decide), BitVec.extractLsb'_append_eq_of_le (by decide)]
    exact BitVec.extractLsb'_append_eq_right
  have hc : (a ++ b ++ c ++ d : Word32).extractLsb' 8 8 = c := by
    rw [BitVec.extractLsb'_append_eq_of_le (by decide)]
    exact BitVec.extractLsb'_append_eq_right
  rw [brev8w_eq_append, ha, hb, hc, BitVec.extractLsb'_append_eq_right]

/-! ### The message polynomial (42_crc32.md R163 (b)) -/

/-- Numbers without a common bit add without a carry. -/
theorem shiftLeft_add_eq_xor {n b : Nat} (hb : b < 2 ^ n) (a : Nat) : a <<< n + b = a <<< n ^^^ b := by
  rw [Nat.shiftLeft_add_eq_or_of_lt hb]
  refine Nat.eq_of_testBit_eq fun i => ?_
  rw [Nat.testBit_or, Nat.testBit_xor, Nat.testBit_shiftLeft]
  obtain hi | hi := lt_or_ge i n
  · simp [hi.not_ge]
  · simp [Nat.testBit_lt_two_pow (hb.trans_le (Nat.pow_le_pow_right two_pos hi))]

/-- The first byte, reflected, stands above the others. -/
theorem messagePoly_cons (b : Byte) (s : List Byte) :
    messagePoly (b :: s) = (rev b).toNat <<< (8 * s.length) ^^^ messagePoly s := by
  have hpow : 256 ^ (revEach s).length = 2 ^ (8 * s.length) := by
    rw [revEach, List.length_map, pow_mul]
    norm_num
  have hlt : messagePoly s < 2 ^ (8 * s.length) := hpow ▸ beU_lt (revEach s)
  have hcons : messagePoly (b :: s) = (rev b).toNat * 256 ^ (revEach s).length + messagePoly s := beU_cons ..
  rw [hcons, hpow, ← Nat.shiftLeft_eq, shiftLeft_add_eq_xor hlt]

/-- The message of four bytes is their big-endian word with each byte reflected. -/
theorem messagePoly_of_four (a b c d : Byte) :
    messagePoly [a, b, c, d] = (brev8w (BitVec.ofNat 32 (beU [a, b, c, d]))).toNat := by
  have hword : BitVec.ofNat 32 (beU [a, b, c, d]) = a ++ b ++ c ++ d := by
    rw [beU_of_four]
    exact (BitVec.ofNat_toNat ..).trans (BitVec.setWidth_eq _)
  rw [hword, brev8w_append]
  exact beU_of_four ..

end Sys2Proof.Machine
end

section
/-! The CRC unit of 42_crc32.md: linearity of the shift register (R164 (a)), its table-driven form, and its polynomial
form in the ring of polynomials over GF(2) modulo the generator (R163). -/

namespace Sys2Proof.Machine

open Polynomial (X)

/-! ### Linearity (42_crc32.md R164 (a)) -/

/-- The shift with its feedback as one XOR. -/
theorem crcShift_eq_xor (c : Word32) : crcShift c = (c >>> 1) ^^^ (if c.getLsbD 0 then feedback else 0) := by
  unfold crcShift
  split <;> simp

theorem crcShift_xor (c d : Word32) : crcShift (c ^^^ d) = crcShift c ^^^ crcShift d := by
  have hfeedback : (if (c ^^^ d).getLsbD 0 then feedback else 0) =
      (if c.getLsbD 0 then feedback else 0) ^^^ (if d.getLsbD 0 then feedback else 0) := by
    rw [BitVec.getLsbD_xor]
    cases c.getLsbD 0 <;> cases d.getLsbD 0 <;> decide
  rw [crcShift_eq_xor, crcShift_eq_xor, crcShift_eq_xor, hfeedback, BitVec.ushiftRight_xor_distrib]
  ac_rfl

theorem crcShifts_xor (n : Nat) (c d : Word32) : crcShifts n (c ^^^ d) = crcShifts n c ^^^ crcShifts n d := by
  induction n generalizing c d with
  | zero => rfl
  | succ n ih => rw [crcShifts, crcShift_xor, ih, crcShifts, crcShifts]

theorem crcByte_xor (c d : Word32) (a b : Byte) : crcByte (c ^^^ d) (a ^^^ b) = crcByte c a ^^^ crcByte d b := by
  rw [crcByte, crcByte, crcByte, ← crcShifts_xor, BitVec.setWidth_xor]
  ac_rfl

theorem crcBytes_xor (c d : Word32) {s t : List Byte} (h : s.length = t.length) :
    crcBytes c s ^^^ crcBytes d t = crcBytes (c ^^^ d) (xorBytes s t) := by
  induction s generalizing c d t with
  | nil =>
    obtain rfl := List.length_eq_zero_iff.mp h.symm
    rfl
  | cons a s ih =>
    cases t with
    | nil => cases h
    | cons b t =>
      rw [crcBytes, crcBytes, ih _ _ (Nat.succ.inj h), ← crcByte_xor]
      rfl

/-! ### The table-driven form (42_crc32.md R163 (a)) -/

/-- While zeros leave the register there is no feedback. -/
theorem crcShifts_eq_ushiftRight {n : Nat} {c : Word32} (h : ∀ i < n, c.getLsbD i = false) :
    crcShifts n c = c >>> n := by
  induction n generalizing c with
  | zero => simp [crcShifts]
  | succ n ih =>
    have hshift : crcShift c = c >>> 1 := if_neg (Bool.eq_false_iff.mp (h 0 n.succ_pos))
    have hlow (i : Nat) (hi : i < n) : (c >>> 1).getLsbD i = false := by
      rw [BitVec.getLsbD_ushiftRight]
      exact h _ (by omega)
    rw [crcShifts, hshift, ih hlow, ← BitVec.shiftRight_add, Nat.add_comm]

/-- Settles O24: by linearity the bits above the low byte are shifted out of the feedback's reach. -/
theorem crcByteIsTheTableStep : Obligations.CrcByteIsTheTableStep := by
  intro c b
  have hsplit : c ^^^ b.setWidth 32 = ((c >>> 8) <<< 8) ^^^ (0 ^^^ (c.setWidth 8 ^^^ b).setWidth 32) := by
    refine BitVec.eq_of_getLsbD_eq fun i hi => ?_
    by_cases hi8 : i < 8
    · simp [hi, hi8]
    · simp [hi, hi8, show 8 + (i - 8) = i by omega]
  have hhigh : crcShifts 8 ((c >>> 8) <<< 8) = c >>> 8 := by
    rw [crcShifts_eq_ushiftRight fun i hi => by simp [hi]]
    refine BitVec.eq_of_getLsbD_eq fun i hi => ?_
    by_cases h8 : 8 + i < 32
    · simp [hi, h8]
    · simp [h8, BitVec.getLsbD_of_ge c _ (not_lt.mp h8)]
  rw [crcByte, hsplit, crcShifts_xor, hhigh, crcByte]

/-! ### The register as a polynomial (42_crc32.md R163 (b)) -/

/-- The polynomial of a reflected value: the most significant bit is the coefficient of x^0. -/
noncomputable def revPoly {w : Nat} (v : BitVec w) : Polynomial (ZMod 2) := toPoly (rev v).toNat

theorem coeff_revPoly {w : Nat} (v : BitVec w) (k : Nat) : (revPoly v).coeff k = if v.getMsbD k then 1 else 0 := by
  rw [revPoly, coeff_toPoly, BitVec.testBit_toNat, rev, BitVec.getLsbD_reverse]

theorem revPoly_zero (w : Nat) : revPoly (0 : BitVec w) = 0 := by
  rw [revPoly, toNat_rev_zero, toPoly_zero]

theorem revPoly_xor {w : Nat} (u v : BitVec w) : revPoly (u ^^^ v) = revPoly u + revPoly v := by
  ext k
  rw [Polynomial.coeff_add, coeff_revPoly, coeff_revPoly, coeff_revPoly, BitVec.getMsbD_xor]
  cases u.getMsbD k <;> cases v.getMsbD k <;> decide

/-- A shift to the right multiplies by x, but for the bit that leaves. -/
theorem revPoly_ushiftRight_one (c : Word32) :
    revPoly (c >>> 1) = revPoly c * X + if c.getLsbD 0 then X ^ 32 else 0 := by
  ext k
  have hout : (if c.getLsbD 0 then (X : Polynomial (ZMod 2)) ^ 32 else 0).coeff k =
      if k = 32 ∧ c.getMsbD 31 then 1 else 0 := by
    rw [show c.getLsbD 0 = c.getMsbD 31 from rfl]
    cases c.getMsbD 31 <;> simp [Polynomial.coeff_X_pow]
  rw [Polynomial.coeff_add, hout, coeff_revPoly, BitVec.getMsbD_ushiftRight]
  cases k with
  | zero => simp
  | succ k =>
    rw [Polynomial.coeff_mul_X, coeff_revPoly]
    obtain hk | rfl | hk := lt_trichotomy k 31
    · simp [hk.ne, show k + 1 < 32 by omega]
    · cases c.getMsbD 31 <;> decide
    · simp [hk.ne', BitVec.getMsbD_of_ge c k hk]

theorem generator_eq : generator = 0x104C11DB7 := rfl

theorem deg_generator : deg generator = 32 := by decide

theorem revPoly_feedback : revPoly feedback = toPoly generator + X ^ 32 := by
  rw [← toPoly_two_pow, ← toPoly_xor, revPoly, toPoly_inj]
  decide

/-- What enters at the low end of the register is of high degree. -/
theorem revPoly_setWidth (b : Byte) : revPoly (b.setWidth 32) = revPoly b * X ^ 24 := by
  ext k
  rw [Polynomial.coeff_mul_X_pow', coeff_revPoly, coeff_revPoly]
  by_cases hk : 24 ≤ k <;> simp [BitVec.getMsbD_setWidth, hk]

/-- One shift of the register is a multiplication by x and a subtraction of the generator. -/
theorem revPoly_crcShift (c : Word32) :
    revPoly (crcShift c) = revPoly c * X + if c.getLsbD 0 then toPoly generator else 0 := by
  rw [crcShift_eq_xor, revPoly_xor, revPoly_ushiftRight_one]
  split
  · rw [revPoly_feedback]
    linear_combination X ^ 32 * CharTwo.two_eq_zero (R := Polynomial (ZMod 2))
  · rw [revPoly_zero, add_zero]

/-- The residue of a polynomial modulo the generator. -/
noncomputable abbrev residue : Polynomial (ZMod 2) →+* AdjoinRoot (toPoly generator) :=
  AdjoinRoot.mk (toPoly generator)

theorem prem_generator_eq_iff {a b : Nat} :
    prem a generator = prem b generator ↔ residue (toPoly a) = residue (toPoly b) :=
  prem_eq_prem_iff.trans AdjoinRoot.mk_eq_mk.symm

theorem residue_crcShifts (n : Nat) (c : Word32) : residue (revPoly (crcShifts n c)) = residue (revPoly c * X ^ n) := by
  induction n generalizing c with
  | zero => simp [crcShifts]
  | succ n ih =>
    have hshift : residue (revPoly (crcShift c)) = residue (revPoly c * X) := by
      rw [revPoly_crcShift]
      split <;> simp
    rw [crcShifts, ih, map_mul, hshift, ← map_mul, pow_succ', mul_assoc]

theorem residue_crcByte (c : Word32) (b : Byte) :
    residue (revPoly (crcByte c b)) = residue (revPoly c * X ^ 8 + revPoly b * X ^ 32) := by
  rw [crcByte, residue_crcShifts, revPoly_xor, revPoly_setWidth]
  exact congrArg residue (by ring)

/-- Every byte read multiplies the state by x^8 and enters at x^32. -/
theorem residue_crcBytes (c : Word32) (s : List Byte) : residue (revPoly (crcBytes c s)) =
    residue (revPoly c * X ^ (8 * s.length) + toPoly (messagePoly s) * X ^ 32) := by
  induction s generalizing c with
  | nil => simp [crcBytes, messagePoly, revEach]
  | cons b s ih =>
    rw [crcBytes, ih, map_add, map_mul, residue_crcByte, messagePoly_cons, toPoly_xor, toPoly_shiftLeft,
      ← map_mul, ← map_add, ← revPoly, List.length_cons]
    exact congrArg residue (by ring)

/-- Settles O25: both sides are residues modulo the generator of degree below 32. -/
theorem crcStateIsAPolynomialRemainder : Obligations.CrcStateIsAPolynomialRemainder := by
  intro c s
  have hdeg : deg (rev (crcBytes c s)).toNat < deg generator := by
    rw [deg_generator]
    exact lt_two_pow_iff_deg_lt.mp (BitVec.isLt _)
  rw [← generator_eq, ← (pdiv_prem_of_deg_lt hdeg).2, prem_generator_eq_iff, toPoly_xor, toPoly_clmul, toPoly_clmul,
    toPoly_two_pow, toPoly_two_pow]
  exact residue_crcBytes c s

/-! ### What four final bytes change (42_crc32.md R164 (b), (c)) -/

/-- From state 0 the register holds the remainder of the message alone. -/
theorem crcBytes_zero (s : List Byte) :
    crcBytes 0 s = rev (BitVec.ofNat 32 (prem (clmul (messagePoly s) (2 ^ 32)) generator)) := by
  have hrem := crcStateIsAPolynomialRemainder 0 s
  rw [← generator_eq, toNat_rev_zero, zero_clmul, Nat.zero_xor] at hrem
  rw [← hrem, BitVec.ofNat_toNat, BitVec.setWidth_eq, rev_rev]

theorem xorBytes_zeros (p : List Byte) : xorBytes p (List.replicate p.length 0) = p := by
  induction p with
  | nil => rfl
  | cons b p ih => simpa [xorBytes, List.replicate_succ] using ih

theorem crcFinal_xor_crcFinal (c d : Word32) : crcFinal c ^^^ crcFinal d = c ^^^ d := by
  calc crcFinal c ^^^ crcFinal d = c ^^^ d ^^^ (crcXorOut ^^^ crcXorOut) := by unfold crcFinal; ac_rfl
    _ = c ^^^ d := by rw [BitVec.xor_self, BitVec.xor_zero]

/-- The difference a last piece makes, against as many zero bytes, does not depend on the state before it. -/
theorem crcFinal_xor_zeros (c : Word32) (u p : List Byte) :
    crcFinal (crcBytes c (u ++ p)) ^^^ crcFinal (crcBytes c (u ++ List.replicate p.length 0)) = crcBytes 0 p := by
  rw [crcFinal_xor_crcFinal, crcBytes_append, crcBytes_append, crcBytes_xor _ _ List.length_replicate.symm,
    xorBytes_zeros, BitVec.xor_self]
  rfl

/-- Settles O26: linearity, then O25 from state 0, then linearity against four zero bytes. -/
theorem crcIsLinear : Obligations.CrcIsLinear := by
  refine ⟨fun c d _ _ h => crcBytes_xor c d h, fun p h => ?_, fun c u p h => ?_⟩
  · obtain ⟨p0, p1, p2, p3, rfl⟩ := List.length_eq_four.mp h
    rw [← messagePoly_of_four, crcBytes_zero, generator_eq]
  · have hdiff := crcFinal_xor_zeros c u p
    rwa [h] at hdiff

/-! ### Feeding in pieces (42_crc32.md R161) -/

/-- Settles O22: the first two laws are the definition's, the third is `crcBytes_append`. -/
theorem crcStateDoesNotDependOnTheSplit : Obligations.CrcStateDoesNotDependOnTheSplit :=
  fun c => ⟨rfl, fun _ _ => rfl, crcBytes_append c⟩

end Sys2Proof.Machine
end

section
/-! The four CRC instructions of 42_crc32.md R165 to R168. -/

namespace Sys2Proof.Machine

/-- The bytes read are those at ascending addresses (20_memory.md R63). -/
theorem State.memRead_eq_bytesAt (s : State) (a n : Nat) : s.memRead a n = s.bytesAt a n := by
  refine List.ext_getElem? fun i => ?_
  by_cases hi : i < n
  · rw [s.memRead_getElem? a n i hi]
    simp [State.bytesAt, hi]
  · rw [List.getElem?_eq_none (by simpa using hi), List.getElem?_eq_none (by simpa [State.bytesAt] using hi)]

/-- Any other word with CRCI's opcode is illegal (30_encoding.md R102 (b)). -/
theorem illegalWord_of_crci_opcode {w : Word32} (h : w &&& 0xFC000000 = 0x80000000) (hne : w ≠ 0x80000000) :
    IllegalWord w := by
  have hop : opcodeOf w = 0x20 := opcodeOf_eq_of_and (by decide) h
  rw [illegalWord_iff_plain hop rfl rfl, ← match_iff hop rfl (by decide)]
  change ¬ w &&& BitVec.allOnes 32 = 0x80000000
  rwa [BitVec.and_allOnes]

/-- Settles O20: each instruction is `finishCrc` or `finish` of its value. -/
theorem crcRegisterInstructions : Obligations.CrcRegisterInstructions := by
  refine ⟨encodes_of_plainRow (op := 0x20) rfl (by decide), fun _ => illegalWord_of_crci_opcode,
    encodes_of_plainRow (op := 0x21) rfl (by decide), encodes_of_plainRow (op := 0x23) rfl (by decide),
    fun s r => ⟨s.finishCrc_spec 0xFFFFFFFF, s.finishCrc_spec _, ?_⟩⟩
  rw [BitVec.ofNat_toNat]
  exact s.finish_spec r _

/-- Settles O21: the check decides between the scan of the bytes at ascending addresses and the fault. -/
theorem crcuScansTheRangeOrFaults : Obligations.CrcuScansTheRangeOrFaults := by
  refine ⟨encodes_of_plainRow (op := 0x22) rfl (by decide), fun s rs1 rs2 => ?_⟩
  dsimp only
  split
  case isTrue hinside =>
    rw [← State.memRead_eq_bytesAt]
    exact exec_crcu_inside hinside
  case isFalse houtside =>
    rw [show exec (.crcu rs1 rs2) s = s.raise _ _ _ from if_neg houtside]
    exact s.raise_spec ..

end Sys2Proof.Machine
end

section
/-! The laws of the two reflections (43_reflection.md R190 to R192): each reverses bit positions, BREV32 over the low
word and BREV8 within each byte lane, and on a 32-bit value they differ by the order of the bytes. -/

namespace Sys2Proof.Machine

/-! ### Bit positions (43_reflection.md R190, R191) -/

theorem getLsbD_rev {w i : Nat} (v : BitVec w) (hi : i < w) : (rev v).getLsbD i = v.getLsbD (w - 1 - i) := by
  rw [rev, BitVec.getLsbD_reverse, BitVec.getMsbD_eq_getLsbD, decide_eq_true hi, Bool.true_and]

theorem getLsbD_brev32 {i : Nat} (v : Word) (hi : i < 64) :
    (brev32 v).getLsbD i = (decide (i < 32) && v.getLsbD (31 - i)) := by
  rw [brev32, BitVec.getLsbD_setWidth, decide_eq_true hi, Bool.true_and]
  by_cases hlow : i < 32
  · rw [getLsbD_rev _ hlow, BitVec.getLsbD_setWidth, decide_eq_true hlow, decide_eq_true (by omega)]
  · rw [BitVec.getLsbD_of_ge _ _ (not_lt.mp hlow), decide_eq_false hlow, Bool.false_and]

/-- Lane j of BREV8 is lane j of its operand, reversed. -/
theorem extractLsb'_brev8 {j : Nat} (v : Word) (hj : j < 8) :
    (brev8 v).extractLsb' (8 * j) 8 = rev (v.extractLsb' (8 * j) 8) := by
  unfold brev8
  interval_cases j
  all_goals
    simp only [BitVec.extractLsb'_append_eq_of_le, BitVec.extractLsb'_append_eq_right, BitVec.extractLsb'_eq_self,
      Nat.reduceMul, Nat.reduceSub, Nat.reduceLeDiff]

theorem getLsbD_brev8 {j i : Nat} (v : Word) (hj : j < 8) (hi : i < 8) :
    (brev8 v).getLsbD (8 * j + i) = v.getLsbD (8 * j + (7 - i)) := by
  have hlane := congrArg (BitVec.getLsbD · i) (extractLsb'_brev8 v hj)
  rwa [getLsbD_rev _ hi, BitVec.getLsbD_extractLsb', BitVec.getLsbD_extractLsb', decide_eq_true hi,
    decide_eq_true (by omega), Bool.true_and, Bool.true_and] at hlane

/-- Words that agree at every position of every byte lane are equal. -/
theorem eq_of_lanes {u v : Word} (h : ∀ j < 8, ∀ i < 8, u.getLsbD (8 * j + i) = v.getLsbD (8 * j + i)) : u = v := by
  refine BitVec.eq_of_getLsbD_eq fun k hk => ?_
  rw [← Nat.div_add_mod k 8]
  exact h _ (by omega) _ (by omega)

theorem brev8w_eq_extractLsb' (v : Word32) : brev8w v = (brev8 (v.setWidth 64)).extractLsb' 0 32 :=
  BitVec.setWidth_eq_extractLsb' (by decide)

/-- Settles O27: each instruction is `finish` of its reflection, whose bits the lemmas above give. -/
theorem reflectionInstructions : Obligations.ReflectionInstructions := by
  refine ⟨encodes_of_plainRow (op := 0x28) rfl (by decide), encodes_of_plainRow (op := 0x29) rfl (by decide),
    brev8w_eq_extractLsb', fun s rd rs1 => ⟨?_, ?_⟩⟩
  · obtain ⟨t, hnext, hres⟩ := s.finish_spec rd (brev32 (s.x rs1))
    exact ⟨t, _, hnext, hres, fun i => getLsbD_brev32 _⟩
  · obtain ⟨t, hnext, hres⟩ := s.finish_spec rd (brev8 (s.x rs1))
    refine ⟨t, _, hnext, hres, fun j hj i hi => ?_⟩
    rw [getLsbD_brev8 _ hj hi, Nat.add_sub_assoc (by omega)]

/-! ### Involutions (43_reflection.md R192 (a)) -/

theorem brev32_setWidth (v : Word32) : brev32 (v.setWidth 64) = (rev v).setWidth 64 := by
  rw [brev32, BitVec.setWidth_setWidth_of_le v (by decide), BitVec.setWidth_eq]

theorem brev32_brev32 (v : Word) : brev32 (brev32 v) = (v.extractLsb' 0 32).setWidth 64 := by
  calc brev32 (brev32 v) = (rev (rev (v.setWidth 32))).setWidth 64 := brev32_setWidth _
    _ = (v.extractLsb' 0 32).setWidth 64 := by rw [rev_rev, BitVec.setWidth_eq_extractLsb' (v := 64) (by decide)]

theorem brev8_brev8 (v : Word) : brev8 (brev8 v) = v := by
  refine eq_of_lanes fun j hj i hi => ?_
  rw [getLsbD_brev8 _ hj hi, getLsbD_brev8 _ hj (by omega), Nat.sub_sub_self (by omega)]

/-! ### The four bytes of a word (43_reflection.md R192 (b)) -/

theorem exists_four_bytes (v : Word32) : ∃ a b c d : Byte, v = a ++ b ++ c ++ d := by
  refine ⟨v.extractLsb' 24 8, v.extractLsb' 16 8, v.extractLsb' 8 8, v.extractLsb' 0 8, ?_⟩
  rw [BitVec.extractLsb'_append_extractLsb'_eq_extractLsb' (by decide),
    BitVec.extractLsb'_append_extractLsb'_eq_extractLsb' (by decide),
    BitVec.extractLsb'_append_extractLsb'_eq_extractLsb' (by decide)]
  exact BitVec.extractLsb'_eq_self.symm

theorem rev_four_bytes (a b c d : Byte) : (rev (a ++ b ++ c ++ d) : Word32) = rev d ++ rev c ++ rev b ++ rev a := by
  simp only [rev, BitVec.reverse_append, BitVec.append_assoc, BitVec.cast_eq]

/-- Reversing `bswap32` leaves each byte in its place with its bits reversed. -/
theorem bswap32_append (a b c d : Byte) : bswap32 (a ++ b ++ c ++ d) = d ++ c ++ b ++ a := by
  have hbytes (v : Word32) : rev (bswap32 v) = brev8w v := by
    rw [bswap32, rev_four_bytes, brev8w_eq_append]
  rw [← rev_rev (bswap32 _), hbytes, brev8w_append, rev_four_bytes, rev_rev, rev_rev, rev_rev, rev_rev]

/-- Reversing all bits is reversing the bits of each byte and then the order of the bytes. -/
theorem rev_eq_bswap32 (v : Word32) : rev v = bswap32 (brev8w v) := by
  obtain ⟨a, b, c, d, rfl⟩ := exists_four_bytes v
  rw [brev8w_append, bswap32_append, rev_four_bytes]

theorem bswap32_brev8w (v : Word32) : bswap32 (brev8w v) = brev8w (bswap32 v) := by
  obtain ⟨a, b, c, d, rfl⟩ := exists_four_bytes v
  rw [brev8w_append, bswap32_append, bswap32_append, brev8w_append]

theorem brev8w_involutive : Function.Involutive brev8w := by
  intro v
  obtain ⟨a, b, c, d, rfl⟩ := exists_four_bytes v
  simp only [brev8w_append, rev_rev]

/-- The four high lanes of a zero-extended value are 0, and stay so. -/
theorem brev8_setWidth (v : Word32) : brev8 (v.setWidth 64) = (brev8w v).setWidth 64 := by
  refine eq_of_lanes fun j hj i hi => ?_
  rw [brev8w, BitVec.getLsbD_setWidth, BitVec.getLsbD_setWidth, decide_eq_true (by omega), Bool.true_and]
  by_cases hlow : 8 * j + i < 32
  · rw [decide_eq_true hlow, Bool.true_and]
  · rw [decide_eq_false hlow, Bool.false_and, getLsbD_brev8 _ hj hi, BitVec.getLsbD_setWidth,
      BitVec.getLsbD_of_ge v _ (by omega), Bool.and_false]

theorem brev32_eq_brev8_iff (v : Word32) : brev32 (v.setWidth 64) = brev8 (v.setWidth 64) ↔ bswap32 v = v := by
  have hinj : Function.Injective (BitVec.setWidth 64 : Word32 → Word) :=
    Function.LeftInverse.injective (g := BitVec.setWidth 32) fun u => by
      rw [BitVec.setWidth_setWidth_of_le u (by decide), BitVec.setWidth_eq]
  rw [brev32_setWidth, brev8_setWidth, hinj.eq_iff, rev_eq_bswap32, bswap32_brev8w, brev8w_involutive.injective.eq_iff]

/-! ### The two generators (43_reflection.md R192 (c)) -/

theorem rev_generator : rev (0x04C11DB7 : Word32) = 0xEDB88320 := by decide +kernel

/-- Settles O28: the laws above, with 0x12345678 as a word that is no byte palindrome. -/
theorem reflectionLaws : Obligations.ReflectionLaws := by
  have hpalindrome : bswap32 0x12345678 ≠ 0x12345678 := by decide
  refine ⟨brev32_brev32, brev8_brev8, fun v => ?_, brev32_eq_brev8_iff,
    (brev32_eq_brev8_iff 0x12345678).not.mpr hpalindrome, rev_generator, ?_⟩
  · rw [brev32_setWidth, rev_eq_bswap32]
  · rw [← rev_generator, rev_rev]

end Sys2Proof.Machine
end

section
/-! The forge engine of 44_forge.md: for four last bytes, bringing the checksum to a target is the division of the
delta by x^32 modulo the generator, which has exactly one answer. -/

namespace Sys2Proof.Machine

/-! ### Four bytes and their big-endian value (00_scope.md R12) -/

/-- Byte sequences of one length are determined by their value. -/
theorem beU_inj {u v : List Byte} (h : u.length = v.length) : beU u = beU v ↔ u = v := by
  refine ⟨fun hval => ?_, congrArg beU⟩
  induction u generalizing v with
  | nil => exact (List.length_eq_zero_iff.mp h.symm).symm
  | cons b u ih =>
    cases v with
    | nil => cases h
    | cons c v =>
      have hlen : u.length = v.length := Nat.succ.inj h
      have hu : beU u < 256 ^ v.length := hlen ▸ beU_lt u
      rw [beU_cons, beU_cons, hlen] at hval
      have htail := congrArg (· % 256 ^ v.length) hval
      simp only [Nat.mul_add_mod_self_right, Nat.mod_eq_of_lt, beU_lt, hu] at htail
      simp only [htail, Nat.add_right_cancel_iff] at hval
      rw [ih hlen htail, BitVec.eq_of_toNat_eq (Nat.eq_of_mul_eq_mul_right (by positivity) hval)]

theorem beBytes_beU {u : List Byte} {n : Nat} (h : u.length = n) : beBytes n (beU u) = u := by
  rw [← beU_inj ((beBytes_length n _).trans h.symm), beU_beBytes]
  exact Nat.mod_eq_of_lt (h ▸ beU_lt u)

theorem beU_lt_of_length_four {q : List Byte} (h : q.length = 4) : beU q < 2 ^ 32 := by
  have hlt := beU_lt q
  rwa [h] at hlt

@[simp] theorem revEach_length (u : List Byte) : (revEach u).length = u.length := List.length_map _

theorem revEach_involutive : Function.Involutive revEach := by
  intro u
  simp [revEach, Function.comp_def]

theorem messagePoly_lt_of_length_four {q : List Byte} (h : q.length = 4) : messagePoly q < 2 ^ 32 :=
  beU_lt_of_length_four ((revEach_length q).trans h)

/-- Steps 7 and 8 of R210 undo the reading of four bytes as a polynomial. -/
theorem messagePoly_eq_iff {q : List Byte} (h : q.length = 4) {v : Nat} (hv : v < 2 ^ 32) :
    messagePoly q = v ↔ q = revEach (beBytes 4 v) := by
  have hval : beU (beBytes 4 v) = v := (beU_beBytes 4 v).trans (Nat.mod_eq_of_lt hv)
  calc messagePoly q = v ↔ beU (revEach q) = beU (beBytes 4 v) := by rw [hval, messagePoly]
    _ ↔ revEach q = beBytes 4 v := beU_inj (by simp [h])
    _ ↔ q = revEach (beBytes 4 v) := revEach_involutive.eq_iff

/-! ### What the last four bytes have to be (44_forge.md R210, R212) -/

/-- The last bytes decide the checksum by what they make of CRC state 0, whatever comes before them. -/
theorem crcFinal_eq_iff_crcBytes_zero (S T : Word32) (p : Bool) {q : List Byte} (h : q.length = 4) :
    crcFinal (crcBytes S (padBytes p ++ q)) = T ↔ crcBytes 0 q = T ^^^ forgeProbe S p := by
  have hdelta : crcFinal (crcBytes S (padBytes p ++ q)) ^^^ forgeProbe S p = crcBytes 0 q := by
    have hzeros := crcFinal_xor_zeros S (padBytes p) q
    rwa [h] at hzeros
  rw [← hdelta, BitVec.xor_left_inj]

/-- From CRC state 0 the register holds the reflected remainder of the message times x^32. -/
theorem crcBytes_zero_eq_iff (c : Word32) (q : List Byte) :
    crcBytes 0 q = c ↔ prem (clmul (messagePoly q) (2 ^ 32)) generator = (rev c).toNat := by
  have hrem := crcStateIsAPolynomialRemainder 0 q
  rw [← generator_eq, toNat_rev_zero, zero_clmul, Nat.zero_xor] at hrem
  have hrev : Function.Injective (rev : Word32 → Word32) := Function.Involutive.injective rev_rev
  rw [← hrem, BitVec.toNat_inj, hrev.eq_iff]

theorem deg_lt_deg_generator {v : Nat} (h : v < 2 ^ 32) : deg v < deg generator := by
  rw [deg_generator]
  exact lt_two_pow_iff_deg_lt.mp h

/-- Below the generator's degree, division by x^32 inverts multiplication by x^32 (41_gf2_arith.md R126 (e)). -/
theorem prem_clmul_x32_eq_iff {k v : Nat} (hk : k < 2 ^ 32) (hv : v < 2 ^ 32) :
    prem (clmul v (2 ^ 32)) generator = k ↔ pdivx32 k generator = some v := by
  have hreduced : prem k generator = k := (pdiv_prem_of_deg_lt (deg_lt_deg_generator hk)).2
  constructor
  · intro h
    exact pdivx32_unique rfl (h.trans hreduced.symm) (deg_lt_deg_generator hv)
  · intro h
    exact (pdivx32_spec h).1.trans hreduced

/-- The division of step 6 answers, and in 32 bits (R210). -/
theorem pdivx32_delta (S T : Word32) (p : Bool) :
    pdivx32 (rev (T ^^^ forgeProbe S p)).toNat generator = some (forgeCorrection S T p) ∧
      forgeCorrection S T p < 2 ^ 32 := by
  obtain ⟨v, hv, hlt⟩ := pdivx32_generator (rev (T ^^^ forgeProbe S p)).toNat
  have hcorr : forgeCorrection S T p = v := congrArg (Option.getD · 0) hv
  rw [hcorr]
  exact ⟨hv, hlt⟩

/-- Four bytes bring the checksum to the target exactly when they are the patch (R212, R213). -/
theorem crcFinal_eq_iff_forgePatch (S T : Word32) (p : Bool) {q : List Byte} (h : q.length = 4) :
    crcFinal (crcBytes S (padBytes p ++ q)) = T ↔ q = forgePatch S T p := by
  obtain ⟨hdiv, hlt⟩ := pdivx32_delta S T p
  calc crcFinal (crcBytes S (padBytes p ++ q)) = T
    _ ↔ crcBytes 0 q = T ^^^ forgeProbe S p := crcFinal_eq_iff_crcBytes_zero S T p h
    _ ↔ prem (clmul (messagePoly q) (2 ^ 32)) generator = (rev (T ^^^ forgeProbe S p)).toNat :=
      crcBytes_zero_eq_iff _ q
    _ ↔ pdivx32 (rev (T ^^^ forgeProbe S p)).toNat generator = some (messagePoly q) :=
      prem_clmul_x32_eq_iff (BitVec.isLt _) (messagePoly_lt_of_length_four h)
    _ ↔ messagePoly q = forgeCorrection S T p := by rw [hdiv, Option.some_inj, eq_comm]
    _ ↔ q = forgePatch S T p := messagePoly_eq_iff h hlt

/-- Settles O42: the equivalence above, with the patch as ForgeCore returns it. -/
theorem patchIsTheOnlyFourBytes : Obligations.PatchIsTheOnlyFourBytes :=
  fun S T p _ h => crcFinal_eq_iff_forgePatch S T p h

/-! ### FORGE (44_forge.md R211, R212) -/

/-- The marker written out (10_state.md R38). -/
theorem padBytes_eq (p : Bool) : padBytes p = if p then [0x08, 0x08, 0x08, 0x08] else [] := by
  cases p with
  | false => rfl
  | true => decide

theorem forgePatch_length (S T : Word32) (p : Bool) : (forgePatch S T p).length = 4 := by
  rw [forgePatch, revEach_length, beBytes_length]

/-- The patch itself is four bytes, so it verifies (R212). -/
theorem crcFinal_forgeState (S T : Word32) (p : Bool) : crcFinal (forgeState S T p) = T :=
  (crcFinal_eq_iff_forgePatch S T p (forgePatch_length S T p)).mpr rfl

theorem forgeState_eq (S T : Word32) (p : Bool) : forgeState S T p = T ^^^ crcXorOut := by
  rw [← BitVec.xor_left_inj crcXorOut, BitVec.xor_assoc, BitVec.xor_self, BitVec.xor_zero]
  exact crcFinal_forgeState S T p

/-- FORGE always takes the branch of a verified patch. -/
theorem exec_forge (rd rs1 : RegNum) (p : Bool) (s : State) :
    exec (.forge rd rs1 p) s =
      .next ((s.setX rd (toWord (beU (forgePatch s.crc ((s.x rs1).extractLsb' 0 32) p)))).setCrc
        ((s.x rs1).extractLsb' 0 32 ^^^ crcXorOut)).advance := by
  rw [← BitVec.setWidth_eq_extractLsb' (by decide), ← forgeState_eq s.crc _ p]
  exact if_pos (crcFinal_forgeState s.crc _ p)

/-- Settles O40: the patch verifies, so the branch that raises VERIFY_FAILED is never taken. -/
theorem forgedPatchAlwaysVerifies : Obligations.ForgedPatchAlwaysVerifies :=
  ⟨crcFinal_forgeState, fun s rd rs1 p => ⟨_, exec_forge rd rs1 p s, rfl, rfl, rfl, rfl, rfl⟩⟩

/-- Settles O41: rd holds the value of the patch, whose big-endian bytes are the patch again. -/
theorem forgeInstructionReturnsAVerifiedPatch : Obligations.ForgeInstructionReturnsAVerifiedPatch := by
  refine ⟨encodes_of_plainRow (op := 0x38) rfl (by decide), fun s rd rs1 p => ?_⟩
  intro T
  have hlt : beU (forgePatch s.crc T p) < 2 ^ 32 := beU_lt_of_length_four (forgePatch_length s.crc T p)
  have hval : (toWord (beU (forgePatch s.crc T p))).toNat = beU (forgePatch s.crc T p) :=
    toNat_toWord (hlt.trans (by decide))
  refine ⟨_, toWord (beU (forgePatch s.crc T p)), exec_forge rd rs1 p s, fun r => by simp [T], hval.trans_lt hlt,
    ?_, hval, crcFinal_forgeState s.crc T p, rfl, rfl, rfl, ⟨rfl, rfl, rfl, rfl⟩, fun _ => rfl,
    ⟨rfl, fun _ => rfl, rfl, rfl, rfl⟩⟩
  rw [hval, beBytes_beU (forgePatch_length s.crc T p), ← padBytes_eq]
  exact crcFinal_forgeState s.crc T p

end Sys2Proof.Machine
end

section
/-! The engine's turn of 45_sequencer.md R269: what a running engine does with the word at its pc, and that every
instruction answers. -/

namespace Sys2Proof.Machine

variable {s : State}

/-- A running engine with pc inside IMEM executes the instruction the word at pc decodes to. -/
theorem State.engineStep_eq_exec {i : Instr} (hrun : s.status = .running) (hpc : s.pc.toNat < s.params.imemWords)
    (hi : decode (s.word s.pc.toNat) = .ok i) : s.engineStep = exec i s := by
  rw [State.engineStep, if_pos hrun, State.runStep, State.fetch, if_pos hpc]
  simp only [State.execWord, hi]

/-- A running engine with pc beyond IMEM takes FETCH_FAULT(pc, 0) (60_exceptions.md R303). -/
theorem State.engineStep_eq_raise_fetchFault (hrun : s.status = .running) (hpc : s.params.imemWords ≤ s.pc.toNat) :
    s.engineStep = s.raise .fetchFault (s.pc.setWidth 64) 0 := by
  rw [State.engineStep, if_pos hrun, State.runStep, State.fetch, if_neg (not_lt.mpr hpc)]

/-- An engine that is due takes FETCH_FAULT when its pc is beyond IMEM. -/
theorem EngineDue.step_fetchFault (h : EngineDue s) (hpc : s.params.imemWords ≤ s.pc.toNat) :
    ∃ t, step s = .next t ∧ FaultEntry s t .fetchFault (BitVec.ofNat 64 s.pc.toNat) 0 := by
  rw [step_engine s h.legal h.quiet, State.engineStep_eq_raise_fetchFault h.running hpc, BitVec.ofNat_toNat]
  exact s.raise_spec ..

/-- Settles O5: the step is the engine's turn, whether nothing is pending or the turn is the input that is due. -/
theorem stepRunsTheDecodedInstruction : Obligations.StepRunsTheDecodedInstruction := by
  intro s i hlegal hrun hpc hi
  refine ⟨fun hquiet => ?_, fun rest hturn => ?_⟩
  · rw [step_engine s hlegal hquiet]
    exact State.engineStep_eq_exec hrun hpc hi
  · rw [step_input s hlegal hturn]
    exact State.engineStep_eq_exec (s := s.setInputs rest) hrun hpc hi

/-- Every ending is a next state, a fault's entry too (60_exceptions.md R301). -/
theorem Ends.next {r : Result} (h : Ends s r) : ∃ t, r = .next t := by
  cases h with
  | finish | crc | store | branch | halt | forge | raise => exact ⟨_, rfl⟩

/-- Settles O46: every instruction ends in one of the shared ways. -/
theorem everyInstructionAnswersANextState : Obligations.EveryInstructionAnswersANextState :=
  fun i s => (exec_ends s i).next

end Sys2Proof.Machine
end

section
/-! The integer and move-wide instructions of 45_sequencer.md R240 to R249: their results in integers modulo 2^64 and lane
by lane. -/

namespace Sys2Proof.Machine

/-! ### Word operations in integers (00_scope.md R11) -/

section
variable {w : Nat} (a b : BitVec w)

theorem ofNat_toNat_succ : BitVec.ofNat w (a.toNat + 1) = a + 1 := by
  rw [BitVec.ofNat_add, BitVec.ofNat_toNat, BitVec.setWidth_eq]
  rfl

/-- A difference, with any multiple `c` of 2^w added to it (45_sequencer.md R241). -/
theorem ofInt_toNat_sub (c : Int) (hc : BitVec.ofInt w c = 0) : BitVec.ofInt w (a.toNat - b.toNat + c) = a - b := by
  rw [BitVec.ofInt_add, hc, Int.sub_eq_add_neg, BitVec.ofInt_add, BitVec.ofInt_neg, BitVec.ofInt_natCast,
    BitVec.ofInt_natCast, BitVec.ofNat_toNat, BitVec.ofNat_toNat, BitVec.setWidth_eq, BitVec.setWidth_eq, add_zero,
    sub_eq_add_neg]

/-- Adding a sign-extended immediate is adding its signed value (30_encoding.md R99). -/
theorem ofInt_toNat_add_toInt {n : Nat} (imm : BitVec n) :
    BitVec.ofInt w (a.toNat + imm.toInt) = a + imm.signExtend w := by
  rw [BitVec.ofInt_add, BitVec.ofInt_natCast, BitVec.ofNat_toNat, BitVec.setWidth_eq]
  rfl

theorem ofNat_toNat_mul_two_pow (n : Nat) : BitVec.ofNat w (a.toNat * 2 ^ n) = a <<< n :=
  BitVec.eq_of_toNat_eq (by rw [BitVec.toNat_ofNat, BitVec.toNat_shiftLeft, Nat.shiftLeft_eq])

theorem ofNat_toNat_div_two_pow (n : Nat) : BitVec.ofNat w (a.toNat / 2 ^ n) = a >>> n := by
  rw [← Nat.shiftRight_eq_div_pow, ← BitVec.toNat_ushiftRight, BitVec.ofNat_toNat, BitVec.setWidth_eq]

end

/-- Settles O11: the immediate is added at its signed value. -/
theorem effectiveAddressWraps : Obligations.EffectiveAddressWraps :=
  fun s rs1 imm => (ofInt_toNat_add_toInt (s.x rs1) imm).symm

/-! ### Integer operations (45_sequencer.md R240 to R247) -/

/-- Settles O8: each instruction is `finish` of its word operation, which the statement gives in integers. -/
theorem integerRegisterInstructions : Obligations.IntegerRegisterInstructions := by
  refine ⟨encodes_of_plainRow (op := 0x01) rfl (by decide), encodes_of_plainRow (op := 0x02) rfl (by decide),
    encodes_of_plainRow (op := 0x03) rfl (by decide), encodes_of_plainRow (op := 0x04) rfl (by decide),
    encodes_of_plainRow (op := 0x05) rfl (by decide), fun s rd rs1 rs2 => ?_⟩
  rw [ofInt_toNat_sub _ _ _ rfl]
  simp only [BitVec.ofNat_add, BitVec.ofNat_and, BitVec.ofNat_or, BitVec.ofNat_xor, BitVec.ofNat_toNat, BitVec.setWidth_eq]
  exact ⟨s.finish_spec rd _, s.finish_spec rd _, s.finish_spec rd _, s.finish_spec rd _, s.finish_spec rd _⟩

/-- A nonzero bit above the shift amount is illegal for SLLI and SRLI (30_encoding.md R102 (b)). -/
theorem illegalWord_of_shift_opcode {w : Word32} (h : w &&& 0xFC000000 = 0x1C000000 ∨ w &&& 0xFC000000 = 0x20000000)
    (hbits : ¬ bitsZero w 6 12) : IllegalWord w := by
  have hop : opcodeOf w = 0x07 ∨ opcodeOf w = 0x08 :=
    h.imp (opcodeOf_eq_of_and (by decide)) (opcodeOf_eq_of_and (by decide))
  obtain hop | hop := hop
  all_goals exact (illegalWord_iff_plain hop rfl rfl).mpr fun hz => hbits (hz.fields hop rfl)

/-- Settles O9: each instruction is `finish` of its word operation, which the statement gives in integers. -/
theorem integerImmediateInstructions : Obligations.IntegerImmediateInstructions := by
  refine ⟨encodes_of_plainRow (op := 0x06) rfl (by decide), encodes_of_plainRow (op := 0x07) rfl (by decide),
    encodes_of_plainRow (op := 0x08) rfl (by decide), fun _ => illegalWord_of_shift_opcode, fun s rd rs1 => ?_⟩
  simp only [ofInt_toNat_add_toInt, ofNat_toNat_mul_two_pow, ofNat_toNat_div_two_pow]
  exact ⟨fun _ => s.finish_spec rd _, fun _ => s.finish_spec rd _, fun _ => s.finish_spec rd _⟩

/-! ### Lanes (45_sequencer.md R248, R249) -/

/-- Bit i of a word is bit i mod 16 of lane i / 16: the immediate's in its own lane, 0 in the others. -/
theorem getLsbD_laneWord (imm16 : BitVec 16) (hw : BitVec 2) {i : Nat} (hi : i < 64) :
    (laneWord imm16 hw).getLsbD i = (decide (i / 16 = hw.toNat) && imm16.getLsbD (i % 16)) := by
  have hpos : i - 16 * hw.toNat < 64 := by omega
  rw [laneWord, laneShift, BitVec.getLsbD_shiftLeft, BitVec.getLsbD_setWidth, decide_eq_true hi, decide_eq_true hpos,
    Bool.true_and, Bool.true_and]
  by_cases hlane : i / 16 = hw.toNat
  · have hin : i - 16 * hw.toNat = i % 16 := by omega
    rw [hin, decide_eq_true hlane, decide_eq_false (by omega), Bool.not_false]
  · rw [decide_eq_false hlane, Bool.false_and]
    by_cases hbelow : i < 16 * hw.toNat
    · rw [decide_eq_true hbelow, Bool.not_true, Bool.false_and]
    · rw [BitVec.getLsbD_of_ge _ _ (by omega), Bool.and_false]

/-- The mask of a lane is set in that lane only. -/
theorem getLsbD_laneMask (hw : BitVec 2) {i : Nat} (hi : i < 64) :
    (laneMask hw).getLsbD i = decide (i / 16 = hw.toNat) := by
  have hset : (BitVec.allOnes 16).getLsbD (i % 16) = true := by
    rw [BitVec.getLsbD_allOnes]
    exact decide_eq_true (Nat.mod_lt _ (by decide))
  rw [show laneMask hw = laneWord (BitVec.allOnes 16) hw from rfl, getLsbD_laneWord _ _ hi, hset, Bool.and_true]

/-- A word with one lane replaced. -/
theorem getLsbD_replaceLane (v : Word) (imm16 : BitVec 16) (hw : BitVec 2) {i : Nat} (hi : i < 64) :
    ((v &&& ~~~ laneMask hw) ||| laneWord imm16 hw).getLsbD i =
      if i / 16 = hw.toNat then imm16.getLsbD (i % 16) else v.getLsbD i := by
  rw [BitVec.getLsbD_or, BitVec.getLsbD_and, BitVec.getLsbD_not, getLsbD_laneMask _ hi, getLsbD_laneWord _ _ hi]
  by_cases hlane : i / 16 = hw.toNat <;> simp [hlane, hi]

/-- Settles O10: each instruction is `finish` of its lanes. -/
theorem moveWideInstructions : Obligations.MoveWideInstructions := by
  refine ⟨encodes_of_plainRow (op := 0x09) rfl (by decide), encodes_of_plainRow (op := 0x0A) rfl (by decide),
    fun s rd imm16 hw => ⟨?_, ?_⟩⟩
  · obtain ⟨t, hnext, hres⟩ := s.finish_spec rd (laneWord imm16 hw)
    exact ⟨t, _, hnext, hres, fun i => getLsbD_laneWord imm16 hw⟩
  · obtain ⟨t, hnext, hres⟩ := s.finish_spec rd ((s.x rd &&& ~~~ laneMask hw) ||| laneWord imm16 hw)
    exact ⟨t, _, hnext, hres, fun i => getLsbD_replaceLane (s.x rd) imm16 hw⟩

end Sys2Proof.Machine
end

section
/-! The loads and stores of 45_sequencer.md R250 to R255. -/

namespace Sys2Proof.Machine

variable (s : State) {n : Nat}

/-! ### Byte sequences as words (00_scope.md R12) -/

theorem toNat_append_byte {n : Nat} (v : BitVec n) (b : Byte) : (v ++ b).toNat = v.toNat * 256 + b.toNat := by
  rw [BitVec.toNat_append, ← Nat.shiftLeft_add_eq_or_of_lt b.isLt, Nat.shiftLeft_eq]

theorem beU_of_one (b : Byte) : beU [b] = b.toNat := by
  simp [beU_cons]

theorem beU_of_eight (a b c d e f g h : Byte) :
    beU [a, b, c, d, e, f, g, h] = (a ++ b ++ c ++ d ++ e ++ f ++ g ++ h).toNat := by
  simp only [toNat_append_byte, beU, List.foldl_cons, List.foldl_nil, Nat.zero_mul, Nat.zero_add]

/-- The bytes of a word, most significant first, are its byte fields from the top. -/
theorem beBytes_toNat (n : Nat) (v : Word) :
    beBytes n v.toNat = (List.range n).reverse.map fun i => v.extractLsb' (8 * i) 8 := by
  induction n with
  | zero => rfl
  | succ n ih =>
    rw [List.range_succ, List.reverse_concat, List.map_cons, ← ih]
    rfl

/-! ### An access inside DMEM or not (20_memory.md R62, 60_exceptions.md R305) -/

theorem State.memCheck_iff {a : Nat} (hn : n ≠ 0) : s.memCheck a n ↔ a + n ≤ s.params.dmemBytes := or_iff_right hn

/-- A load whose bytes are those of `v`. -/
theorem State.load_spec (hn : n ≠ 0) (rd : RegNum) (ea : Word) {m : Nat} {v : BitVec m}
    (hv : beU (s.memRead ea.toNat n) = v.toNat) :
    if ea.toNat + n ≤ s.params.dmemBytes then ∃ t, s.load n rd ea = .next t ∧ RegResult s t rd (v.setWidth 64)
    else ∃ t, s.load n rd ea = .next t ∧ FaultEntry s t .addrFault ea (BitVec.ofNat 64 n) := by
  split
  case isTrue hinside =>
    rw [s.load_inside ((s.memCheck_iff hn).mpr hinside), hv, BitVec.ofNat_toNat]
    exact s.finish_spec rd _
  case isFalse houtside =>
    rw [s.load_outside ((s.memCheck_iff hn).not.mpr houtside)]
    exact s.raise_spec ..

/-- A store whose bytes, most significant first, are `bytes`. -/
theorem State.store_spec (hn : n ≠ 0) (v ea : Word) {bytes : List Byte} (hbytes : beBytes n v.toNat = bytes) :
    if ea.toNat + n ≤ s.params.dmemBytes then ∃ t, s.store n v ea = .next t ∧ StoreResult s t ea.toNat bytes
    else ∃ t, s.store n v ea = .next t ∧ FaultEntry s t .addrFault ea (BitVec.ofNat 64 n) := by
  split
  case isTrue hinside =>
    rw [← hbytes]
    exact s.store_inside ((s.memCheck_iff hn).mpr hinside) v
  case isFalse houtside =>
    rw [s.store_outside ((s.memCheck_iff hn).not.mpr houtside)]
    exact s.raise_spec ..

/-- Settles O12: each instruction is `load` of 1, 4 or 8 bytes. -/
theorem loadInstructions : Obligations.LoadInstructions := by
  refine ⟨encodes_of_plainRow (op := 0x10) rfl (by decide), encodes_of_plainRow (op := 0x11) rfl (by decide),
    encodes_of_plainRow (op := 0x12) rfl (by decide), fun s rd rs1 imm => ⟨?_, ?_, ?_⟩⟩
  · exact s.load_spec (by decide) rd (s.ea rs1 imm) (beU_of_one _)
  · exact s.load_spec (by decide) rd (s.ea rs1 imm) (beU_of_four _ _ _ _)
  · exact s.load_spec (by decide) rd (s.ea rs1 imm) (beU_of_eight _ _ _ _ _ _ _ _)

/-- Settles O13: each instruction is `store` of 1, 4 or 8 bytes. -/
theorem storeInstructions : Obligations.StoreInstructions := by
  refine ⟨encodes_of_plainRow (op := 0x13) rfl (by decide), encodes_of_plainRow (op := 0x14) rfl (by decide),
    encodes_of_plainRow (op := 0x15) rfl (by decide), fun s rs2 rs1 imm => ⟨?_, ?_, ?_⟩⟩
  · exact s.store_spec (by decide) (s.x rs2) (s.ea rs1 imm) (beBytes_toNat 1 _)
  · exact s.store_spec (by decide) (s.x rs2) (s.ea rs1 imm) (beBytes_toNat 4 _)
  · exact s.store_spec (by decide) (s.x rs2) (s.ea rs1 imm) (beBytes_toNat 8 _)

end Sys2Proof.Machine
end

section
/-! The branches of 45_sequencer.md R260 to R263. -/

namespace Sys2Proof.Machine

/-! ### The conditions on unsigned values (45_sequencer.md R261 to R263) -/

section
variable (a b : Word)

theorem condEq_iff : condEq a b = true ↔ a.toNat = b.toNat := by
  rw [condEq, beq_iff_eq, BitVec.toNat_inj]

theorem condNe_iff : condNe a b = true ↔ a.toNat ≠ b.toNat := by
  rw [condNe, bne_iff_ne, ne_eq, ne_eq, BitVec.toNat_inj]

theorem condLtu_iff : condLtu a b = true ↔ a.toNat < b.toNat := by
  rw [condLtu, BitVec.ult_iff_lt, BitVec.lt_def]

end

/-! ### Branching -/

/-- A branch under the condition `p`, its two places for pc in integers. -/
theorem State.branch_spec_of_iff (s : State) {taken : Bool} {p : Prop} [Decidable p] (h : taken = true ↔ p)
    (off : BitVec 18) : ∃ t, s.branch taken off = .next t ∧
      PcResult s t (if p then BitVec.ofInt 32 (s.pc.toNat + off.toInt) else BitVec.ofNat 32 (s.pc.toNat + 1)) := by
  rw [← s.target_eq_ofInt, ofNat_toNat_succ, ← if_congr h rfl rfl]
  exact s.branch_spec taken off

/-- Settles O15: each instruction is `branch` under its condition. -/
theorem branchInstructions : Obligations.BranchInstructions := by
  refine ⟨encodes_of_plainRow (op := 0x18) rfl (by decide), encodes_of_plainRow (op := 0x19) rfl (by decide),
    encodes_of_plainRow (op := 0x1A) rfl (by decide), fun s rs1 rs2 off => ⟨?_, ?_, ?_⟩⟩
  · exact s.branch_spec_of_iff (condEq_iff _ _) off
  · exact s.branch_spec_of_iff (condNe_iff _ _) off
  · exact s.branch_spec_of_iff (condLtu_iff _ _) off

/-- The engine is due again after an instruction that only moves pc. -/
theorem EngineDue.of_pcResult {s t : State} {pc : Word32} (h : EngineDue s) (ht : PcResult s t pc) : EngineDue t :=
  ⟨ht.outside.params ▸ h.legal, ht.outside.inputs.trans h.quiet, ht.status.trans h.running⟩

/-- Settles O16: the branch is always taken, and the fetch after it checks the target. -/
theorem branchOutOfImemFaultsAtTheNextStep : Obligations.BranchOutOfImemFaultsAtTheNextStep := by
  intro s r off hdue hpc hdecode target
  obtain ⟨t, hexec, ht⟩ := s.branch_spec_of_iff (condEq_iff (s.x r) (s.x r)) off
  rw [if_pos rfl] at ht
  have hpc' : t.pc = target := ht.pc
  refine ⟨t, (hdue.step_eq_exec hpc hdecode).trans hexec, ht, fun hout => ?_⟩
  rw [← ht.outside.params, ← hpc'] at hout
  obtain ⟨u, hstep, hfault⟩ := (hdue.of_pcResult ht).step_fetchFault hout
  exact ⟨u, hstep, hpc' ▸ hfault, hfault.epc.trans hpc'⟩

end Sys2Proof.Machine
end

section
/-! The system instructions CSRR, CSRW and HALT of 45_sequencer.md R265 to R267. -/

namespace Sys2Proof

open Machine

/-! ### Encodings (30_encoding.md R101, 10_state.md R39) -/

/-- The words of CSRR with the number of an assigned csr: the match word is CSRR of that csr into r0. -/
theorem encodes_csrr {mtch : Word32} (csr : Csr) (hmtch : encode (.csrr 0 csr) = mtch) :
    Encodes 0xFC3FFFFF mtch fun w => .csrr (bits25to22 w) csr := by
  subst hmtch
  intro w h
  have hself : encode (.csrr 0 csr) &&& 0xFC3FFFFF = encode (.csrr 0 csr) := by
    cases csr <;> decide
  have hfields := (and_eq_iff (fs := [(26, 6), (18, 4), (0, 18)]) (by decide) hself).mp h
  have hop : opcodeOf w = 0x1C := (hfields (26, 6) (by simp)).trans (opcodeOf_formatI ..)
  have hb : fieldB w = 0 := (hfields (18, 4) (by simp)).trans (fieldB_formatI ..)
  have himm : imm18Of w = 0#6 ++ csr.number := (hfields (0, 18) (by simp)).trans (imm18Of_formatI ..)
  exact decode_of_encode_eq rfl (formatI_of_fields hop rfl hb himm)

/-- CSRR of an unassigned csr is illegal (30_encoding.md R102 (d)). -/
theorem illegalWord_of_unassigned_csr {w : Word32} (h : w &&& 0xFC3FF000 = 0x70000000)
    (hcsr : (csrFieldOf w).toNat ∉ assignedCsrs) : IllegalWord w := by
  have hop : opcodeOf w = 0x1C := opcodeOf_of_match (r := ⟨0xFC3FF000, 0x70000000, buildCsrr⟩) rfl (by decide) h
  exact (illegalWord_iff_csrr hop).mpr fun ⟨_, hsome⟩ => hsome (csrOfNumber_eq_none_iff.mpr hcsr)

theorem encodes_csrw : Encodes 0xFFC3FFFF 0x74000001 fun w => .csrw (bits21to18 w) := by
  intro w h
  have hop : opcodeOf w = 0x1D := (and_eq_iff (rowOf_mask 0x1D _ rfl) rfl).mp h (26, 6) List.mem_cons_self
  exact decode_of_match hop rfl h

/-- CSRW of any csr but CRC is illegal (30_encoding.md R102 (e)). -/
theorem illegalWord_of_csrw_other {w : Word32} (h : w &&& 0xFC000000 = 0x74000000) (hcsr : csrFieldOf w ≠ 0x001) :
    IllegalWord w :=
  (illegalWord_iff_csrw (opcodeOf_eq_of_and (by decide) h)).mpr fun ⟨_, _, hcrc⟩ => hcsr hcrc

theorem decode_eq_halt_iff {w : Word32} : decode w = .ok .halt ↔ w = 0x7C000000 := by
  have henc : encode .halt = 0x7C000000 := by decide
  constructor
  · intro h
    obtain ⟨_, _, hw⟩ := decode_ok_spec h
    exact hw.symm.trans henc
  · rintro rfl
    exact decode_of_encode_eq rfl henc

/-- Any other word with HALT's opcode is illegal (30_encoding.md R102 (b)). -/
theorem illegalWord_of_halt_opcode {w : Word32} (h : w &&& 0xFC000000 = 0x7C000000) (hne : w ≠ 0x7C000000) :
    IllegalWord w := by
  have hop : opcodeOf w = 0x1F := opcodeOf_eq_of_and (by decide) h
  refine (illegalWord_iff_plain hop rfl rfl).mpr fun hz => hne ?_
  calc w = formatN 0x1F := (formatN_of_fields hop (hz.fields hop rfl)).symm
    _ = 0x7C000000 := by decide

namespace Machine

variable (s : State)

/-! ### Effects -/

/-- CSRR writes the csr's value. -/
theorem exec_csrr_spec (rd : RegNum) (csr : Csr) :
    ∃ t, exec (.csrr rd csr) s = .next t ∧ RegResult s t rd (s.csr csr) := s.finish_spec rd _

/-- The codes of 60_exceptions.md R302, as CAUSE is read. -/
theorem cause_code_eq : ∀ p ∈ [(Cause.none, 0), (.fetchFault, 1), (.illegalInstruction, 2), (.addrFault, 3),
    (.domainError, 4), (.verifyFailed, 5)], p.1.code.setWidth 64 = BitVec.ofNat 64 p.2 := by
  decide

/-- Settles O17: CSRR writes the csr's value, which the statement gives in numbers. -/
theorem csrrReadsEveryAssignedRegister : Obligations.CsrrReadsEveryAssignedRegister := by
  refine ⟨fun _ => illegalWord_of_unassigned_csr, encodes_csrr .crc (by decide), encodes_csrr .cause (by decide),
    encodes_csrr .epc (by decide), encodes_csrr .einfo0 (by decide), encodes_csrr .einfo1 (by decide),
    encodes_csrr .poly (by decide), encodes_csrr .polyref (by decide), encodes_csrr .crcinit (by decide),
    encodes_csrr .crcxorout (by decide), encodes_csrr .padword (by decide), fun s rd => ?_⟩
  rw [BitVec.ofNat_toNat, BitVec.ofNat_toNat]
  refine ⟨exec_csrr_spec s rd .crc, fun p hp hcause => ?_, exec_csrr_spec s rd .epc, exec_csrr_spec s rd .einfo0,
    exec_csrr_spec s rd .einfo1, exec_csrr_spec s rd .poly, exec_csrr_spec s rd .polyref, exec_csrr_spec s rd .crcinit,
    exec_csrr_spec s rd .crcxorout, exec_csrr_spec s rd .padword⟩
  rw [← cause_code_eq p hp, ← hcause]
  exact exec_csrr_spec s rd .cause

/-- Settles O52: the fault record of a running engine is empty (`State.record_of_not_faulted`). -/
theorem causeReadsZeroDuringARun : Obligations.CauseReadsZeroDuringARun := by
  intro s rd hrecord hrun
  obtain ⟨hcause, hinfo0, hinfo1⟩ := State.record_of_not_faulted hrecord (by simp [hrun])
  obtain ⟨hzero, hzero0, hzero1⟩ : s.csr .cause = 0 ∧ s.csr .einfo0 = 0 ∧ s.csr .einfo1 = 0 := by
    simp [State.csr, Cause.code, hcause, hinfo0, hinfo1]
  exact ⟨hzero ▸ exec_csrr_spec s rd .cause, hzero0 ▸ exec_csrr_spec s rd .einfo0,
    hzero1 ▸ exec_csrr_spec s rd .einfo1⟩

/-- Settles O18: CSRW is `finishCrc` of the low half of its source. -/
theorem csrwWritesCrcOnly : Obligations.CsrwWritesCrcOnly := by
  refine ⟨encodes_csrw, fun _ => illegalWord_of_csrw_other, fun s rs1 => ?_⟩
  rw [← BitVec.toNat_setWidth, BitVec.ofNat_toNat, BitVec.setWidth_eq]
  exact s.finishCrc_spec _

/-- Settles O19: HALT sets STATUS and advances. -/
theorem haltEndsTheRun : Obligations.HaltEndsTheRun := by
  refine ⟨fun _ _ => decode_eq_halt_iff, fun _ => illegalWord_of_halt_opcode, fun s => ?_⟩
  exact ⟨(s.setStatus .halted).advance, rfl, rfl, rfl, (ofNat_toNat_succ s.pc).symm, fun _ => rfl, rfl,
    ⟨rfl, rfl, rfl, rfl⟩, fun _ => rfl, ⟨rfl, fun _ => rfl, rfl, rfl, rfl⟩⟩

end Machine
end Sys2Proof
end

section
/-! The exceptions and the host interface of 60_exceptions.md: how a run ends, what CTRL does, and what each host access
reads, writes, ignores or is refused, by the rows of the register map (R321). -/

namespace Sys2Proof.Machine

variable {s t : State}

/-! ### How a run ends (60_exceptions.md R301, R303, R309, R315, R326) -/

/-- Settles O47: of the endings only fault entry leaves a running engine FAULTED. -/
theorem faultsArePrecise : Obligations.FaultsArePrecise := by
  intro i s t hrun hexec hfaulted
  obtain ⟨hstatus, _⟩ | ⟨hhalted, _⟩ | ⟨c, e0, e1, hc, hfault⟩ := (exec_ends s i).status_cases hexec
  · simp [hstatus, hrun] at hfaulted
  · simp [hhalted] at hfaulted
  · exact ⟨hfault.of_record, hfault.cause ▸ hc⟩

/-- Of the 36 instructions only HALT ends a run normally (45_sequencer.md R267). -/
theorem ExecResult.eq_halt {i : Instr} (h : ExecResult s t i) (hrun : s.status = .running) (hhalted : t.status = .halted) :
    i = .halt := by
  cases h with
  | reg _ _ h => simp [h.status, hrun] at hhalted
  | crc _ _ h => simp [h.status, hrun] at hhalted
  | store _ _ _ h => simp [h.status, hrun] at hhalted
  | branch _ _ _ h => simp [h.status, hrun] at hhalted
  | halt hi => exact hi
  | forge _ _ _ _ h => simp [h, hrun] at hhalted
  | fault _ _ _ _ h => simp [h.status] at hhalted

theorem exec_halts_iff {i : Instr} (hrun : s.status = .running) (h : exec i s = .next t) :
    t.status = .halted ↔ i = .halt := by
  refine ⟨(exec_result h).eq_halt hrun, ?_⟩
  rintro rfl
  cases h
  rfl

/-- No ending leaves a running engine idle. -/
theorem Ends.status_ne_idle {r : Result} (h : Ends s r) (hrun : s.status = .running) (ht : r = .next t) :
    t.status ≠ .idle := by
  obtain ⟨hstatus, _⟩ | ⟨hhalted, _⟩ | ⟨c, e0, e1, _, hfault⟩ := h.status_cases ht
  · simp [hstatus, hrun]
  · simp [hhalted]
  · simp [hfault.status]

theorem EngineDue.step_eq_runStep (h : EngineDue s) : step s = s.runStep := by
  rw [step_engine s h.legal h.quiet, State.engineStep, if_pos h.running]

/-- Settles O48: a fetch or decode fault leaves FAULTED, and an instruction that is executed halts only if it is HALT. -/
theorem onlyHaltEndsARunNormally : Obligations.OnlyHaltEndsARunNormally := by
  intro s t hdue hstep
  refine ⟨?_, s.runStep_ends.status_ne_idle hdue.running (hdue.step_eq_runStep.symm.trans hstep)⟩
  by_cases hpc : s.pc.toNat < s.params.imemWords
  · cases hdecode : decode (s.word s.pc.toNat) with
    | ok i =>
      have hexec : exec i s = .next t := (hdue.step_eq_exec hpc hdecode).symm.trans hstep
      simp [exec_halts_iff hdue.running hexec, hpc]
    | error e =>
      cases (hdue.step_eq_raise hpc hdecode).symm.trans hstep
      simp
  · obtain ⟨u, hu, hfault⟩ := hdue.step_fetchFault (not_lt.mp hpc)
    cases hu.symm.trans hstep
    simp [hfault.status, hpc]

/-- Settles O6: `EngineDue.step_fetchFault` is what the statement says. -/
theorem fetchBeyondImemFaults : Obligations.FetchBeyondImemFaults := fun _ hdue hpc => hdue.step_fetchFault hpc

/-- Settles O7: the turn is the engine's, and it does nothing with it. -/
theorem idleEngineKeepsItsState : Obligations.IdleEngineKeepsItsState := by
  intro s hlegal hquiet hstopped
  rw [step_engine s hlegal hquiet, State.engineStep, if_neg hstopped]

/-! ### CTRL (60_exceptions.md R322, R325) -/

theorem State.writeCtrl_reset {v : Word} (hreset : v.getLsbD 1 = true) : s.writeCtrl v = s.softReset := if_pos hreset

theorem State.writeCtrl_of_no_effect {v : Word} (hreset : v.getLsbD 1 = false)
    (hnone : v.getLsbD 0 = false ∨ s.status = .running) : s.writeCtrl v = s := by
  have hstart : ¬ (v.getLsbD 0 = true ∧ s.status ≠ .running) := fun ⟨hset, hstopped⟩ =>
    hnone.elim (fun hclear => nomatch hset.symm.trans hclear) hstopped
  rw [State.writeCtrl, if_neg (ne_true_of_eq_false hreset), if_neg hstart]

/-- CTRL is written alike whether the engine runs or not. -/
theorem State.hostWriteState_ctrl (s : State) (v : Word) : s.hostWriteState .ctrl v = s.writeCtrl v := by
  rw [State.hostWriteState, if_pos rfl, State.hostStore, ite_self]

theorem WriteDue.step_ctrl {v : Word} {rest : List Input} (h : WriteDue s 64 0 v rest) :
    step s = .next ((s.setInputs rest).writeCtrl v) := by
  rw [h.step_eq ((hostReg_eq_ctrl s.params 0).mpr rfl) rfl, State.hostWriteState_ctrl]

/-- The soft reset is the reset of every register of 70_reset_and_hazards.md R340. -/
theorem State.resetRegs_softReset (s : State) : ResetRegs s.softReset :=
  ⟨s.softReset_x, rfl, rfl, rfl, rfl, rfl, rfl, rfl⟩

/-- RESET is the soft reset, whatever START's bit and STATUS are. -/
theorem WriteDue.step_reset {v : Word} {rest : List Input} (h : WriteDue s 64 0 v rest) (hreset : v.getLsbD 1 = true) :
    step s = .next (s.setInputs rest).softReset := by
  rw [h.step_ctrl, State.writeCtrl_reset hreset]

/-- Settles O58: RESET is the soft reset, which writes neither memory. -/
theorem softResetKeepsTheMemories : Obligations.SoftResetKeepsTheMemories := by
  intro s v rest hdue hreset
  exact ⟨_, hdue.step_reset hreset, State.resetRegs_softReset _, ⟨fun _ => rfl, fun _ => rfl⟩, rfl, rfl, rfl⟩

/-- Settles O53: either START has its effect, or the write has none. -/
theorem startRunsAStoppedEngine : Obligations.StartRunsAStoppedEngine := by
  intro s v rest hdue hreset
  by_cases hnone : v.getLsbD 0 = false ∨ s.status = .running
  · have hstep : step s = .next (s.setInputs rest) := by
      rw [hdue.step_ctrl, State.writeCtrl_of_no_effect (s := s.setInputs rest) hreset hnone]
    refine ⟨_, hstep, rfl, fun hstart hstopped => ?_, fun _ => rfl⟩
    exact absurd hnone (by simp [hstart, hstopped])
  · obtain ⟨hstart, hstopped⟩ := not_or.mp hnone
    have hstep := hdue.step_start hstopped (by simpa using hstart) hreset
    exact ⟨_, hstep, rfl,
      fun _ _ => ⟨rfl, rfl, rfl, rfl, rfl, fun _ => rfl, rfl, rfl, ⟨fun _ => rfl, fun _ => rfl⟩, rfl, rfl⟩,
      fun h => absurd h hnone⟩

/-! ### Host reads (60_exceptions.md R321, R323, R324) -/

section
variable {bits offset : Nat} {rest : List Input} {r : HostReg} {v : Word}

/-- A host read that is due, of the width of what its offset names, returns that thing's value and changes nothing else. -/
theorem ReadDue.result (h : ReadDue s bits offset rest) (hr : hostReg s.params offset = r)
    (hwidth : r.widthOk bits = true) (hvalue : s.hostReadValue r = v) :
    ∃ t, step s = .next t ∧ ReadResult s t rest v := by
  subst hr hvalue
  rw [step_input s h.legal h.due]
  exact ⟨_, (s.setInputs rest).hostRead_spec hwidth, ⟨rfl⟩⟩

/-- While the engine is stopped the value is the table's. -/
theorem ReadDue.result_of_stopped (hstopped : s.status ≠ .running) (hr : hostReg s.params offset = r)
    (hwidth : r.widthOk bits = true) (hvalue : s.hostValue r = v) (h : ReadDue s bits offset rest) :
    ∃ t, step s = .next t ∧ ReadResult s t rest v :=
  h.result hr hwidth ((if_neg hstopped).trans hvalue)

/-- While the engine runs only STATUS reads other than 0, and it reads 1. -/
theorem State.hostReadValue_of_running (hrun : s.status = .running) (offset : Nat) :
    s.hostReadValue (hostReg s.params offset) = if offset = 0x008 then 1 else 0 := by
  rw [State.hostReadValue, if_pos hrun, hrun]
  simp only [hostReg_eq_status, RunStatus.value]

end

/-- The values of STATUS while the engine is stopped (10_state.md R35). -/
theorem status_value_eq : ∀ p ∈ [(RunStatus.idle, 0x0), (.halted, 0x2), (.faulted, 0x4)],
    p.1.value = BitVec.ofNat 64 p.2 := by
  decide

/-- Settles O55: each row names one thing, whose value `hostValue` gives. -/
theorem hostReadsOfAStoppedEngine : Obligations.HostReadsOfAStoppedEngine := by
  intro s rest hstopped reads
  have row {bits offset : Nat} {r : HostReg} {v : Word} : hostReg s.params offset = r → r.widthOk bits = true →
      s.hostValue r = v → reads bits offset v := ReadDue.result_of_stopped hstopped
  refine ⟨row (r := .ctrl) rfl rfl rfl, fun p hp hstatus => ?_, row (r := .pc) rfl rfl rfl, fun p hp hcause => ?_,
    row (r := .epc) rfl rfl rfl, row (r := .einfo0) rfl rfl rfl, row (r := .einfo1) rfl rfl rfl,
    row (r := .crc) rfl rfl rfl, fun i hi => row (hostReg_gpr _ hi) rfl rfl, fun i hi => row (hostReg_imem _ hi) rfl rfl,
    fun i hi hdue => row (hostReg_dmem hdue.legal hi) rfl rfl hdue,
    fun bits offset hother => row hother.unmapped rfl rfl⟩
  · exact row (r := .status) rfl rfl ((congrArg _ hstatus).trans (status_value_eq p hp))
  · exact row (r := .cause) rfl rfl ((congrArg (fun c => c.code.setWidth 64) hcause).trans (cause_code_eq p hp))

/-! ### Host writes (60_exceptions.md R321, R323, R324) -/

/-- While the engine runs a host write does nothing, unless it is RESET. -/
theorem State.hostWriteState_of_running {r : HostReg} {v : Word} (hrun : s.status = .running)
    (hother : r ≠ .ctrl ∨ v.getLsbD 1 = false) : s.hostWriteState r v = s := by
  rw [State.hostWriteState, if_pos hrun]
  split_ifs with hctrl
  · exact State.writeCtrl_of_no_effect (hother.resolve_left (not_not.mpr hctrl)) (.inr hrun)
  · rfl

/-- Settles O54: the map names STATUS and CTRL at their own offsets only. -/
theorem hostAccessWhileTheEngineRuns : Obligations.HostAccessWhileTheEngineRuns := by
  intro s bits offset v rest hrun hrow
  refine ⟨fun hdue => ?_, fun hdue => ?_⟩
  · exact hdue.result rfl (HostRow.described hdue.legal hrow) (State.hostReadValue_of_running hrun offset)
  have hstep := hdue.step_eq rfl (HostRow.described hdue.legal hrow)
  refine ⟨fun ⟨hzero, hreset⟩ => ?_, fun hother => ?_⟩
  · rw [(hostReg_eq_ctrl ..).mpr hzero, State.hostWriteState_ctrl, State.writeCtrl_reset hreset] at hstep
    exact ⟨_, hstep, State.resetRegs_softReset _, fun _ => rfl, fun _ => rfl⟩
  · have hctrl := hother.imp_left (mt (hostReg_eq_ctrl s.params offset).mp)
    rw [State.hostWriteState_of_running (s := s.setInputs rest) hrun hctrl] at hstep
    exact hstep

/-- One stored byte changes the read of its own address only. -/
theorem State.memWrite_singleton_byte (s : State) (i : Nat) (b : Byte) (k : Nat) :
    (s.memWrite i [b]).byte k = if k = i then b else s.byte k := by
  split_ifs with hk
  · subst hk
    exact s.memWrite_byte_inside k [b] (i := 0) rfl
  · refine s.memWrite_byte_other [b] ?_
    rw [List.length_singleton]
    omega

/-- A host write to anything but CTRL changes neither STATUS nor the fault record, nor anything outside the engine. -/
theorem State.hostStore_frame {r : HostReg} (hr : r ≠ .ctrl) (s : State) (v : Word) :
    (s.hostStore r v).inputs = s.inputs ∧ (s.hostStore r v).status = s.status ∧ SameRecord s (s.hostStore r v) ∧
      (s.hostStore r v).params = s.params ∧ (s.hostStore r v).replies = s.replies := by
  cases r with
  | ctrl => exact absurd rfl hr
  | status | pc | cause | epc | einfo0 | einfo1 | crc | gpr | imem | dmem | unmapped =>
    exact ⟨rfl, rfl, ⟨rfl, rfl, rfl, rfl⟩, rfl, rfl⟩

/-- A host write to anything but CTRL, while the engine is stopped: the frame, and whatever the store itself brings. -/
theorem WriteDue.result_of_stopped {bits offset : Nat} {v : Word} {rest : List Input} {r : HostReg} {post : State → Prop}
    (hstopped : s.status ≠ .running) (hr : hostReg s.params offset = r) (hwidth : r.widthOk bits = true)
    (hctrl : r ≠ .ctrl) (hpost : post ((s.setInputs rest).hostStore r v)) (h : WriteDue s bits offset v rest) :
    ∃ t, step s = .next t ∧ t.inputs = rest ∧ t.status = s.status ∧ SameRecord s t ∧ t.params = s.params ∧
      t.replies = s.replies ∧ post t := by
  obtain ⟨hinputs, hstatus, hrecord, hparams, hreplies⟩ := State.hostStore_frame hctrl (s.setInputs rest) v
  exact ⟨_, h.step_eq_hostStore hr hwidth hstopped, hinputs, hstatus, ⟨hrecord.cause, hrecord.epc, hrecord.einfo0,
    hrecord.einfo1⟩, hparams, hreplies, hpost⟩

/-- The read-only rows are 64 bits wide and ignore a write. -/
theorem hostStore_readOnly (p : Params) : ∀ offset ∈ [0x008, 0x018, 0x020, 0x028, 0x030],
    (hostReg p offset).widthOk 64 = true ∧ hostReg p offset ≠ .ctrl ∧
      ∀ (s : State) (v : Word), s.hostStore (hostReg p offset) v = s := by
  intro offset hoffset
  fin_cases hoffset
  all_goals exact ⟨rfl, nofun, fun _ _ => rfl⟩

/-- Settles O56: each row names one thing, and a store to it is one of the shared updates or none. -/
theorem hostWritesToAStoppedEngine : Obligations.HostWritesToAStoppedEngine := by
  intro s v rest hstopped writes
  have row {bits offset : Nat} {r : HostReg} {post : State → Prop} : hostReg s.params offset = r →
      r.widthOk bits = true → r ≠ .ctrl → post ((s.setInputs rest).hostStore r v) → writes bits offset post :=
    WriteDue.result_of_stopped hstopped
  refine ⟨row (r := .pc) rfl rfl nofun ?_, row (r := .crc) rfl rfl nofun ?_, fun i hi => row (hostReg_gpr _ hi) rfl nofun ?_,
    fun i hi => row (hostReg_imem _ hi) rfl nofun ?_,
    fun i hi hdue => row (hostReg_dmem hdue.legal hi) rfl nofun ?_ hdue, fun offset hoffset => ?_,
    fun bits offset hother => row hother.unmapped rfl nofun rfl⟩
  · exact ⟨rfl, fun _ => rfl, rfl, fun _ => rfl, fun _ => rfl⟩
  · exact ⟨rfl, fun _ => rfl, rfl, fun _ => rfl, fun _ => rfl⟩
  · exact ⟨State.setX_x _ _ v, rfl, rfl, fun _ => rfl, fun _ => rfl⟩
  · exact ⟨State.setWord_word _ i _, fun _ => rfl, fun _ => rfl, rfl, rfl⟩
  · exact ⟨State.memWrite_singleton_byte _ i _, fun _ => rfl, fun _ => rfl, rfl, rfl⟩
  · obtain ⟨hwidth, hctrl, hignored⟩ := hostStore_readOnly s.params offset hoffset
    exact row rfl hwidth hctrl (hignored _ v)

/-! ### Accesses of another width (60_exceptions.md R321, 93_implementation_defined.md I7) -/

/-- An access to a row in another width than the row's is refused. -/
theorem HostRow.refuses_other_width {bits offset width : Nat} (hrow : HostRow s.params offset width) (hbits : bits ≠ width)
    (v : Word) (rest : List Input) :
    (ReadDue s bits offset rest → step s = .refused .hostAccessWidth) ∧
      (WriteDue s bits offset v rest → step s = .refused .hostAccessWidth) := by
  have hrefused (hlegal : s.params.legal) : ¬ (hostReg s.params offset).widthOk bits = true := by
    simpa [hrow.widthOk hlegal] using hbits
  refine ⟨fun hdue => ?_, fun hdue => ?_⟩
  · rw [step_input s hdue.legal hdue.due]
    exact if_neg (hrefused hdue.legal)
  · rw [step_input s hdue.legal hdue.due]
    exact if_neg (hrefused hdue.legal)

/-- Settles O57: each offset is that of a row, by R321's table. -/
theorem hostAccessOfAnotherWidthIsRefused : Obligations.HostAccessOfAnotherWidthIsRefused := by
  intro s bits v rest refuses
  refine ⟨fun hbits offset hoffset => ?_, fun hbits i hi => ?_, fun hbits i hi => ?_, fun hbits i hi => ?_⟩
  · exact HostRow.refuses_other_width (.register offset hoffset) hbits v rest
  · exact HostRow.refuses_other_width (.gpr i hi) hbits v rest
  · exact HostRow.refuses_other_width (.imem i hi) hbits v rest
  · exact HostRow.refuses_other_width (.dmem i hi) hbits v rest

end Sys2Proof.Machine
end

section
/-! Power-on (70_reset_and_hazards.md R340, R341, R343): the state the machine starts in, and the platform's reset. -/

namespace Sys2Proof.Machine

variable {s : State}

/-! ### The state the machine starts in -/

/-- Every register of the start state has its reset value already, so a soft reset finds nothing to do. -/
theorem State.softReset_reset : State.reset.softReset = State.reset := rfl

theorem resetRegs_reset : ResetRegs State.reset := State.softReset_reset ▸ State.reset.resetRegs_softReset

/-- Of the memories the start state holds what a power-on reset leaves: nothing written. -/
theorem memoriesOk_reset : State.reset.memoriesOk :=
  State.memoriesOk_of_same (memoriesOk_powerOnReset State.reset) rfl rfl rfl

theorem recordOk_reset : State.reset.recordOk := State.recordOk_of_no_cause nofun rfl rfl rfl

/-- The default parameters are legal (00_scope.md R9). -/
theorem legal_reset : State.reset.params.legal := by decide

/-- Settles O45: the start state meets both invariants, and the rest is read off it. -/
theorem resetStateIsWellFormed : Obligations.ResetStateIsWellFormed :=
  ⟨resetRegs_reset, memoriesOk_reset, recordOk_reset, legal_reset, rfl, rfl, rfl, rfl⟩

/-! ### The platform's reset input -/

/-- Besides what it does to the memories, a power-on reset is the soft reset (70_reset_and_hazards.md R343). -/
theorem State.resetRegs_powerOnReset (s : State) : ResetRegs s.powerOnReset :=
  ⟨s.powerOnReset_x, rfl, rfl, rfl, rfl, rfl, rfl, rfl⟩

/-- A DMEM byte nobody wrote reads as the power-on draw (70_reset_and_hazards.md R341). -/
theorem State.byte_of_dmem_nil (h : s.dmem = []) (a : Nat) : s.byte a = Config.dmemDraw s.powerOns a := by
  rw [State.byte, h, readCell_nil, Option.getD_none]

/-- An IMEM word nobody wrote reads as the power-on draw (70_reset_and_hazards.md R341). -/
theorem State.word_of_imem_nil (h : s.imem = []) (i : Nat) : s.word i = Config.imemDraw s.powerOns i := by
  rw [State.word, h, readCell_nil, Option.getD_none]

/-- A pending power-on reset is the next step. -/
theorem step_powerOn {rest : List Input} (hlegal : s.params.legal) (hdue : s.inputs = .powerOn :: rest) :
    step s = .next (s.setInputs rest).powerOnReset :=
  step_input s hlegal hdue

/-- Settles O59: the reset forgets every written cell, and what nobody wrote reads as the draw of the new power-on. -/
theorem powerOnResetForgetsTheMemories : Obligations.PowerOnResetForgetsTheMemories := by
  intro s rest hlegal hdue
  exact ⟨_, step_powerOn hlegal hdue, State.resetRegs_powerOnReset _, rfl, rfl, State.byte_of_dmem_nil rfl,
    State.word_of_imem_nil rfl⟩

end Sys2Proof.Machine
end
